-- ==== Sys2Proof/Word.lean ====
section
/-! DEFINITION. The widths of the machine's values (00_scope.md R6, 30_encoding.md R80): every register value is
unsigned (00_scope.md R10). -/

namespace Sys2Proof

/-- A memory byte or a general register (`REG_W` = 8). -/
abbrev Byte := BitVec 8

/-- An opcode, an address register or a stack entry (`PC_W` = `I_W` = `STACK_ENTRY_W` = 16). -/
abbrev Word := BitVec 16

/-- A register field, a row count or the major opcode: one nibble of an opcode. -/
abbrev Nibble := BitVec 4

/-- The field `nnn`, a 12-bit address or immediate. -/
abbrev Addr12 := BitVec 12

end Sys2Proof
end

