-- ==== Sys2Proof/Config.lean ====
section
/-! DEFINITION. The free value of the model. The parameters of 00_scope.md R7 that a rule reads stand elsewhere: SHIFT_SOURCE
is a field of State (the host sets it on a port), FONT is the argument of the host's reset and load. -/

namespace Sys2Proof

/-- The random byte of the n-th draw (00_scope.md R8, 43_alu.md R164). It has no body: nothing constrains it, so a claim
about Cxkk holds for every draw, as D26 asks. DESIGN CHOICE, log entry 1. -/
opaque Config.randomByte : Nat → Byte

end Sys2Proof
end

