-- ==== Sys2Proof/Syntax.lean ====
section
/-! DEFINITION. The instruction set: one constructor per row of spec/opcode_table.json, in the order of 30_encoding.md R81,
with the fields of the row as operands (R80, R82). -/

namespace Sys2Proof

/-- The 34 instructions (30_encoding.md R81). A register field is its number 0 to 15. -/
inductive Instr where
  /-- 00E0 `CLS` (45_display.md R202). -/
  | cls
  /-- 00EE `RET` (41_control.md R133). -/
  | ret
  /-- 1nnn `JP nnn` (R131). -/
  | jp (nnn : Addr12)
  /-- 2nnn `CALL nnn` (R132). -/
  | call (nnn : Addr12)
  /-- 3xkk `SE Vx, kk` (42_skip.md R141). -/
  | seImm (x : Nibble) (kk : Byte)
  /-- 4xkk `SNE Vx, kk` (R142). -/
  | sneImm (x : Nibble) (kk : Byte)
  /-- 5xy0 `SE Vx, Vy` (R143). -/
  | seReg (x y : Nibble)
  /-- 6xkk `LD Vx, kk` (43_alu.md R153). -/
  | ldImm (x : Nibble) (kk : Byte)
  /-- 7xkk `ADD Vx, kk` (R154). -/
  | addImm (x : Nibble) (kk : Byte)
  /-- 8xy0 `LD Vx, Vy` (R155). -/
  | ldReg (x y : Nibble)
  /-- 8xy1 `OR Vx, Vy` (R156). -/
  | orReg (x y : Nibble)
  /-- 8xy2 `AND Vx, Vy` (R157). -/
  | andReg (x y : Nibble)
  /-- 8xy3 `XOR Vx, Vy` (R158). -/
  | xorReg (x y : Nibble)
  /-- 8xy4 `ADD Vx, Vy` (R159). -/
  | addReg (x y : Nibble)
  /-- 8xy5 `SUB Vx, Vy` (R160). -/
  | sub (x y : Nibble)
  /-- 8xy6 `SHR Vx, Vy` (R161). -/
  | shr (x y : Nibble)
  /-- 8xy7 `SUBN Vx, Vy` (R162). -/
  | subn (x y : Nibble)
  /-- 8xyE `SHL Vx, Vy` (R163). -/
  | shl (x y : Nibble)
  /-- 9xy0 `SNE Vx, Vy` (42_skip.md R144). -/
  | sneReg (x y : Nibble)
  /-- Annn `LD I, nnn` (44_index_memory.md R181). -/
  | ldI (nnn : Addr12)
  /-- Bnnn `JP V0, nnn` (41_control.md R134). -/
  | jpV0 (nnn : Addr12)
  /-- Cxkk `RND Vx, kk` (43_alu.md R164). -/
  | rnd (x : Nibble) (kk : Byte)
  /-- Dxyn `DRW Vx, Vy, n` (45_display.md R203). -/
  | drw (x y n : Nibble)
  /-- Ex9E `SKP Vx` (46_keypad_timer.md R221). -/
  | skp (x : Nibble)
  /-- ExA1 `SKNP Vx` (R222). -/
  | sknp (x : Nibble)
  /-- Fx07 `LD Vx, DT` (R224). -/
  | ldVxDt (x : Nibble)
  /-- Fx0A `LD Vx, K` (R223). -/
  | ldVxK (x : Nibble)
  /-- Fx15 `LD DT, Vx` (R225). -/
  | ldDtVx (x : Nibble)
  /-- Fx18 `LD ST, Vx` (R226). -/
  | ldStVx (x : Nibble)
  /-- Fx1E `ADD I, Vx` (44_index_memory.md R182). -/
  | addI (x : Nibble)
  /-- Fx29 `LD F, Vx` (R183). -/
  | ldF (x : Nibble)
  /-- Fx33 `LD B, Vx` (R184). -/
  | ldB (x : Nibble)
  /-- Fx55 `LD [I], Vx` (R185). -/
  | storeRegs (x : Nibble)
  /-- Fx65 `LD Vx, [I]` (R186). -/
  | loadRegs (x : Nibble)
deriving DecidableEq, Repr

end Sys2Proof
end

