-- ==== Sys2Proof/WellFormed.lean ====
section
/-! DEFINITION. Well-formedness of what comes from outside the core. An `Instr` needs no check: its operands have the
widths of their fields (30_encoding.md R80), so "a register index is never out of range" (10_state.md R21) by type. What
does need one is a set of operands given as plain numbers, as an assembler has them (R91), and a ROM image (R274). -/

namespace Sys2Proof

/-- Operands given as numbers, before they are put into an instruction's fields (30_encoding.md R91: "a register is
`V0`..`VF`; `kk` is a byte and `nnn` a 12-bit address", "`n` is 0..15"). -/
structure RawOperands where
  x : Nat := 0
  y : Nat := 0
  n : Nat := 0
  kk : Nat := 0
  nnn : Nat := 0
deriving DecidableEq, Repr

/-- Each number fits the field it goes to (30_encoding.md R80: widths 4, 4, 4, 8 and 12). -/
def RawOperands.wellFormed (r : RawOperands) : Bool :=
  r.x < 16 && r.y < 16 && r.n < 16 && r.kk < 256 && r.nnn < 4096

/-- The longest ROM, `ROM_MAX` = 4096 - 0x200 = 3584 bytes (00_scope.md R6). -/
abbrev romMax : Nat := 3584

/-- A ROM image that `load_rom` accepts: "any length from 0 to 3584" (70_reset_and_hazards.md R273). -/
def romWellFormed (bytes : List Byte) : Bool := bytes.length ≤ romMax

/-- An instruction is well formed when its operands, read as numbers, are. Every `Instr` is: see
`Laws.instr_wellFormed`. -/
def Instr.raw : Instr → RawOperands
  | .cls | .ret => {}
  | .jp nnn | .call nnn | .ldI nnn | .jpV0 nnn => { nnn := nnn.toNat }
  | .seImm x kk | .sneImm x kk | .ldImm x kk | .addImm x kk | .rnd x kk => { x := x.toNat, kk := kk.toNat }
  | .seReg x y | .ldReg x y | .orReg x y | .andReg x y | .xorReg x y | .addReg x y | .sub x y | .shr x y
  | .subn x y | .shl x y | .sneReg x y => { x := x.toNat, y := y.toNat }
  | .drw x y n => { x := x.toNat, y := y.toNat, n := n.toNat }
  | .skp x | .sknp x | .ldVxDt x | .ldVxK x | .ldDtVx x | .ldStVx x | .addI x | .ldF x | .ldB x | .storeRegs x
  | .loadRegs x => { x := x.toNat }

/-- The check of an instruction. -/
def Instr.wellFormed (i : Instr) : Bool := i.raw.wellFormed

end Sys2Proof
end

