-- ==== Sys2Proof/Decode.lean ====
section
/-! DEFINITION. The opcode_decoder (30_encoding.md): the fields of an opcode (R80), the total decode of a word (R85) and of
bytes, the encoder written from the formats (R82), and the opcode table (R93). -/

namespace Sys2Proof

/-! ## Fields (R80) -/

/-- The major opcode `h`, op[15:12]. -/
def fieldH (op : Word) : Nibble := op.extractLsb' 12 4

/-- `x`, op[11:8]. -/
def fieldX (op : Word) : Nibble := op.extractLsb' 8 4

/-- `y`, op[7:4]. -/
def fieldY (op : Word) : Nibble := op.extractLsb' 4 4

/-- `n`, op[3:0]. -/
def fieldN (op : Word) : Nibble := op.extractLsb' 0 4

/-- `kk`, op[7:0]. -/
def fieldKK (op : Word) : Byte := op.extractLsb' 0 8

/-- `nnn`, op[11:0]. -/
def fieldNNN (op : Word) : Addr12 := op.extractLsb' 0 12

/-! ## Decode (R85) -/

/-- Bucket 0x8, keyed by the low nibble. -/
def decode8 (n x y : Nibble) : Option Instr :=
  match n with
  | 0x0#4 => some (.ldReg x y)
  | 0x1#4 => some (.orReg x y)
  | 0x2#4 => some (.andReg x y)
  | 0x3#4 => some (.xorReg x y)
  | 0x4#4 => some (.addReg x y)
  | 0x5#4 => some (.sub x y)
  | 0x6#4 => some (.shr x y)
  | 0x7#4 => some (.subn x y)
  | 0xE#4 => some (.shl x y)
  | _ => none

/-- Bucket 0xE, keyed by the low byte. -/
def decodeE (kk : Byte) (x : Nibble) : Option Instr :=
  match kk with
  | 0x9E#8 => some (.skp x)
  | 0xA1#8 => some (.sknp x)
  | _ => none

/-- Bucket 0xF, keyed by the low byte. -/
def decodeF (kk : Byte) (x : Nibble) : Option Instr :=
  match kk with
  | 0x07#8 => some (.ldVxDt x)
  | 0x0A#8 => some (.ldVxK x)
  | 0x15#8 => some (.ldDtVx x)
  | 0x18#8 => some (.ldStVx x)
  | 0x1E#8 => some (.addI x)
  | 0x29#8 => some (.ldF x)
  | 0x33#8 => some (.ldB x)
  | 0x55#8 => some (.storeRegs x)
  | 0x65#8 => some (.loadRegs x)
  | _ => none

/-- `Decode(op)` of R85. `none` is the spec's DecodeError: every fixed nibble of a pattern must match (D7). -/
def decode (op : Word) : Option Instr :=
  match fieldH op with
  | 0x0#4 => if op = 0x00E0#16 then some .cls else if op = 0x00EE#16 then some .ret else none
  | 0x1#4 => some (.jp (fieldNNN op))
  | 0x2#4 => some (.call (fieldNNN op))
  | 0x3#4 => some (.seImm (fieldX op) (fieldKK op))
  | 0x4#4 => some (.sneImm (fieldX op) (fieldKK op))
  | 0x5#4 => if fieldN op = 0x0#4 then some (.seReg (fieldX op) (fieldY op)) else none
  | 0x6#4 => some (.ldImm (fieldX op) (fieldKK op))
  | 0x7#4 => some (.addImm (fieldX op) (fieldKK op))
  | 0x8#4 => decode8 (fieldN op) (fieldX op) (fieldY op)
  | 0x9#4 => if fieldN op = 0x0#4 then some (.sneReg (fieldX op) (fieldY op)) else none
  | 0xA#4 => some (.ldI (fieldNNN op))
  | 0xB#4 => some (.jpV0 (fieldNNN op))
  | 0xC#4 => some (.rnd (fieldX op) (fieldKK op))
  | 0xD#4 => some (.drw (fieldX op) (fieldY op) (fieldN op))
  | 0xE#4 => decodeE (fieldKK op) (fieldX op)
  | _ => decodeF (fieldKK op) (fieldX op)

/-- The opcode made of two bytes in memory order: the first is the high byte (20_memory.md R62). -/
def wordOfBytes (hi lo : Byte) : Word := hi ++ lo

/-- Why bytes are not an instruction. -/
inductive DecodeReject where
  /-- Fewer than the two bytes every instruction has (R88). -/
  | tooShort
  /-- The word is none of the 34 patterns (R89): DecodeError. -/
  | illegalWord (op : Word)
deriving DecidableEq, Repr

/-- Decode the first instruction of a byte sequence and give the rest; total, rejecting by name. -/
def decodeBytes : List Byte → Except DecodeReject (Instr × List Byte)
  | hi :: lo :: rest =>
    match decode (wordOfBytes hi lo) with
    | some i => .ok (i, rest)
    | none => .error (.illegalWord (wordOfBytes hi lo))
  | _ => .error .tooShort

/-! ## Encode (R82) -/

/-- Format A: h, nnn. -/
def formatA (h : Nibble) (nnn : Addr12) : Word := h ++ nnn

/-- Format XK, and format X with its sub-opcode as the low byte: h, x, byte. -/
def formatXK (h x : Nibble) (kk : Byte) : Word := h ++ x ++ kk

/-- Format XYN, and format XY with its sub-opcode as the low nibble: h, x, y, nibble. -/
def formatXYN (h x y n : Nibble) : Word := h ++ x ++ y ++ n

/-- The word of an instruction (R82 and the patterns of R81). -/
def encode : Instr → Word
  | .cls => 0x00E0#16
  | .ret => 0x00EE#16
  | .jp nnn => formatA 0x1 nnn
  | .call nnn => formatA 0x2 nnn
  | .seImm x kk => formatXK 0x3 x kk
  | .sneImm x kk => formatXK 0x4 x kk
  | .seReg x y => formatXYN 0x5 x y 0x0
  | .ldImm x kk => formatXK 0x6 x kk
  | .addImm x kk => formatXK 0x7 x kk
  | .ldReg x y => formatXYN 0x8 x y 0x0
  | .orReg x y => formatXYN 0x8 x y 0x1
  | .andReg x y => formatXYN 0x8 x y 0x2
  | .xorReg x y => formatXYN 0x8 x y 0x3
  | .addReg x y => formatXYN 0x8 x y 0x4
  | .sub x y => formatXYN 0x8 x y 0x5
  | .shr x y => formatXYN 0x8 x y 0x6
  | .subn x y => formatXYN 0x8 x y 0x7
  | .shl x y => formatXYN 0x8 x y 0xE
  | .sneReg x y => formatXYN 0x9 x y 0x0
  | .ldI nnn => formatA 0xA nnn
  | .jpV0 nnn => formatA 0xB nnn
  | .rnd x kk => formatXK 0xC x kk
  | .drw x y n => formatXYN 0xD x y n
  | .skp x => formatXK 0xE x 0x9E
  | .sknp x => formatXK 0xE x 0xA1
  | .ldVxDt x => formatXK 0xF x 0x07
  | .ldVxK x => formatXK 0xF x 0x0A
  | .ldDtVx x => formatXK 0xF x 0x15
  | .ldStVx x => formatXK 0xF x 0x18
  | .addI x => formatXK 0xF x 0x1E
  | .ldF x => formatXK 0xF x 0x29
  | .ldB x => formatXK 0xF x 0x33
  | .storeRegs x => formatXK 0xF x 0x55
  | .loadRegs x => formatXK 0xF x 0x65

/-- A word's high byte, op[15:8]. -/
def highByte (op : Word) : Byte := op.extractLsb' 8 8

/-- A word's low byte, op[7:0]. -/
def lowByte (op : Word) : Byte := op.extractLsb' 0 8

/-- The bytes of an instruction in memory order (R62, R88). -/
def encodeBytes (i : Instr) : List Byte := [highByte (encode i), lowByte (encode i)]

/-- The word whose bits the opcode table numbers 0 to nbits - 1, the bits above them zero. -/
def tableWord (nbits w : Nat) : Word := BitVec.ofNat 16 (w % 2 ^ nbits)

/-- What the decoder reads from an instruction whose bits are `w`: the word is laid out in memory order and decoded. -/
def decodeTableWord (nbits w : Nat) : Option Instr :=
  decode (wordOfBytes (highByte (tableWord nbits w)) (lowByte (tableWord nbits w)))

/-! ## The opcode table (R82, R91, R93) -/

/-- The six formats of R82. -/
inductive Format where
  | w | a | xk | xy | xyn | x
deriving DecidableEq, Repr

/-- A row of spec/opcode_table.json: "the instruction is selected when `op & mask = match`" (R93). -/
structure Row where
  mnemonic : String
  format : Format
  pattern : Word
  mask : Word
deriving DecidableEq, Repr

/-- The row selects the word. -/
def Row.selects (r : Row) (op : Word) : Bool := op &&& r.mask = r.pattern

/-- The first seventeen rows of spec/opcode_table.json. -/
def opcodeTableA : List Row :=
  [⟨"CLS", .w, 0x00E0#16, 0xFFFF#16⟩,
   ⟨"RET", .w, 0x00EE#16, 0xFFFF#16⟩,
   ⟨"JP nnn", .a, 0x1000#16, 0xF000#16⟩,
   ⟨"CALL nnn", .a, 0x2000#16, 0xF000#16⟩,
   ⟨"SE Vx, kk", .xk, 0x3000#16, 0xF000#16⟩,
   ⟨"SNE Vx, kk", .xk, 0x4000#16, 0xF000#16⟩,
   ⟨"SE Vx, Vy", .xy, 0x5000#16, 0xF00F#16⟩,
   ⟨"LD Vx, kk", .xk, 0x6000#16, 0xF000#16⟩,
   ⟨"ADD Vx, kk", .xk, 0x7000#16, 0xF000#16⟩,
   ⟨"LD Vx, Vy", .xy, 0x8000#16, 0xF00F#16⟩,
   ⟨"OR Vx, Vy", .xy, 0x8001#16, 0xF00F#16⟩,
   ⟨"AND Vx, Vy", .xy, 0x8002#16, 0xF00F#16⟩,
   ⟨"XOR Vx, Vy", .xy, 0x8003#16, 0xF00F#16⟩,
   ⟨"ADD Vx, Vy", .xy, 0x8004#16, 0xF00F#16⟩,
   ⟨"SUB Vx, Vy", .xy, 0x8005#16, 0xF00F#16⟩,
   ⟨"SHR Vx, Vy", .xy, 0x8006#16, 0xF00F#16⟩,
   ⟨"SUBN Vx, Vy", .xy, 0x8007#16, 0xF00F#16⟩]

/-- The other seventeen rows of spec/opcode_table.json. -/
def opcodeTableB : List Row :=
  [⟨"SHL Vx, Vy", .xy, 0x800E#16, 0xF00F#16⟩,
   ⟨"SNE Vx, Vy", .xy, 0x9000#16, 0xF00F#16⟩,
   ⟨"LD I, nnn", .a, 0xA000#16, 0xF000#16⟩,
   ⟨"JP V0, nnn", .a, 0xB000#16, 0xF000#16⟩,
   ⟨"RND Vx, kk", .xk, 0xC000#16, 0xF000#16⟩,
   ⟨"DRW Vx, Vy, n", .xyn, 0xD000#16, 0xF000#16⟩,
   ⟨"SKP Vx", .x, 0xE09E#16, 0xF0FF#16⟩,
   ⟨"SKNP Vx", .x, 0xE0A1#16, 0xF0FF#16⟩,
   ⟨"LD Vx, DT", .x, 0xF007#16, 0xF0FF#16⟩,
   ⟨"LD Vx, K", .x, 0xF00A#16, 0xF0FF#16⟩,
   ⟨"LD DT, Vx", .x, 0xF015#16, 0xF0FF#16⟩,
   ⟨"LD ST, Vx", .x, 0xF018#16, 0xF0FF#16⟩,
   ⟨"ADD I, Vx", .x, 0xF01E#16, 0xF0FF#16⟩,
   ⟨"LD F, Vx", .x, 0xF029#16, 0xF0FF#16⟩,
   ⟨"LD B, Vx", .x, 0xF033#16, 0xF0FF#16⟩,
   ⟨"LD [I], Vx", .x, 0xF055#16, 0xF0FF#16⟩,
   ⟨"LD Vx, [I]", .x, 0xF065#16, 0xF0FF#16⟩]

/-- The 34 rows. -/
def opcodeTable : List Row := opcodeTableA ++ opcodeTableB

/-- The assembler syntax of the instruction's row (R91). -/
def Instr.mnemonic : Instr → String
  | .cls => "CLS"
  | .ret => "RET"
  | .jp _ => "JP nnn"
  | .call _ => "CALL nnn"
  | .seImm _ _ => "SE Vx, kk"
  | .sneImm _ _ => "SNE Vx, kk"
  | .seReg _ _ => "SE Vx, Vy"
  | .ldImm _ _ => "LD Vx, kk"
  | .addImm _ _ => "ADD Vx, kk"
  | .ldReg _ _ => "LD Vx, Vy"
  | .orReg _ _ => "OR Vx, Vy"
  | .andReg _ _ => "AND Vx, Vy"
  | .xorReg _ _ => "XOR Vx, Vy"
  | .addReg _ _ => "ADD Vx, Vy"
  | .sub _ _ => "SUB Vx, Vy"
  | .shr _ _ => "SHR Vx, Vy"
  | .subn _ _ => "SUBN Vx, Vy"
  | .shl _ _ => "SHL Vx, Vy"
  | .sneReg _ _ => "SNE Vx, Vy"
  | .ldI _ => "LD I, nnn"
  | .jpV0 _ => "JP V0, nnn"
  | .rnd _ _ => "RND Vx, kk"
  | .drw _ _ _ => "DRW Vx, Vy, n"
  | .skp _ => "SKP Vx"
  | .sknp _ => "SKNP Vx"
  | .ldVxDt _ => "LD Vx, DT"
  | .ldVxK _ => "LD Vx, K"
  | .ldDtVx _ => "LD DT, Vx"
  | .ldStVx _ => "LD ST, Vx"
  | .addI _ => "ADD I, Vx"
  | .ldF _ => "LD F, Vx"
  | .ldB _ => "LD B, Vx"
  | .storeRegs _ => "LD [I], Vx"
  | .loadRegs _ => "LD Vx, [I]"

/-- The format of the instruction's row (R82). -/
def Instr.format : Instr → Format
  | .cls | .ret => .w
  | .jp _ | .call _ | .ldI _ | .jpV0 _ => .a
  | .seImm _ _ | .sneImm _ _ | .ldImm _ _ | .addImm _ _ | .rnd _ _ => .xk
  | .seReg _ _ | .ldReg _ _ | .orReg _ _ | .andReg _ _ | .xorReg _ _ | .addReg _ _ | .sub _ _ | .shr _ _ | .subn _ _ | .shl _ _ | .sneReg _ _ => .xy
  | .drw _ _ _ => .xyn
  | .skp _ | .sknp _ | .ldVxDt _ | .ldVxK _ | .ldDtVx _ | .ldStVx _ | .addI _ | .ldF _ | .ldB _ | .storeRegs _ | .loadRegs _ => .x

/-- One hexadecimal digit. -/
def hexDigit (n : Nat) : String := (["0", "1", "2", "3", "4", "5", "6", "7", "8", "9", "A", "B", "C", "D", "E", "F"][n]?).getD "?"

/-- A register operand, `V0` to `VF` (R91). -/
def asmReg (r : Nibble) : String := "V" ++ hexDigit r.toNat

/-- A byte operand, `0x..` (R91). -/
def asmByte (b : Byte) : String := "0x" ++ hexDigit (b.toNat / 16) ++ hexDigit (b.toNat % 16)

/-- A 12-bit operand, `0x...` (R91). -/
def asmAddr (a : Addr12) : String :=
  "0x" ++ hexDigit (a.toNat / 256) ++ hexDigit (a.toNat / 16 % 16) ++ hexDigit (a.toNat % 16)

/-- An instruction in the assembler syntax of R91, its operands spelled as that rule says. -/
def Instr.asm : Instr → String
  | .cls => "CLS"
  | .ret => "RET"
  | .jp nnn => "JP " ++ asmAddr nnn
  | .call nnn => "CALL " ++ asmAddr nnn
  | .seImm x kk => "SE " ++ asmReg x ++ ", " ++ asmByte kk
  | .sneImm x kk => "SNE " ++ asmReg x ++ ", " ++ asmByte kk
  | .seReg x y => "SE " ++ asmReg x ++ ", " ++ asmReg y
  | .ldImm x kk => "LD " ++ asmReg x ++ ", " ++ asmByte kk
  | .addImm x kk => "ADD " ++ asmReg x ++ ", " ++ asmByte kk
  | .ldReg x y => "LD " ++ asmReg x ++ ", " ++ asmReg y
  | .orReg x y => "OR " ++ asmReg x ++ ", " ++ asmReg y
  | .andReg x y => "AND " ++ asmReg x ++ ", " ++ asmReg y
  | .xorReg x y => "XOR " ++ asmReg x ++ ", " ++ asmReg y
  | .addReg x y => "ADD " ++ asmReg x ++ ", " ++ asmReg y
  | .sub x y => "SUB " ++ asmReg x ++ ", " ++ asmReg y
  | .shr x y => "SHR " ++ asmReg x ++ ", " ++ asmReg y
  | .subn x y => "SUBN " ++ asmReg x ++ ", " ++ asmReg y
  | .shl x y => "SHL " ++ asmReg x ++ ", " ++ asmReg y
  | .sneReg x y => "SNE " ++ asmReg x ++ ", " ++ asmReg y
  | .ldI nnn => "LD I, " ++ asmAddr nnn
  | .jpV0 nnn => "JP V0, " ++ asmAddr nnn
  | .rnd x kk => "RND " ++ asmReg x ++ ", " ++ asmByte kk
  | .drw x y n => "DRW " ++ asmReg x ++ ", " ++ asmReg y ++ ", " ++ toString n.toNat
  | .skp x => "SKP " ++ asmReg x
  | .sknp x => "SKNP " ++ asmReg x
  | .ldVxDt x => "LD " ++ asmReg x ++ ", DT"
  | .ldVxK x => "LD " ++ asmReg x ++ ", K"
  | .ldDtVx x => "LD DT, " ++ asmReg x
  | .ldStVx x => "LD ST, " ++ asmReg x
  | .addI x => "ADD I, " ++ asmReg x
  | .ldF x => "LD F, " ++ asmReg x
  | .ldB x => "LD B, " ++ asmReg x
  | .storeRegs x => "LD [I], " ++ asmReg x
  | .loadRegs x => "LD " ++ asmReg x ++ ", [I]"

end Sys2Proof
end

