-- ==== Sys2Proof/Machine/State.lean ====
section
/-! DEFINITION. The architectural state (10_state.md R20, R34), as plain data, and the machine right after reset (R50). -/

namespace Sys2Proof.Machine

/-- The reasons a step can stop without a next state: none. Every fault of this hardware has an entry the spec describes
(60_exceptions.md R245), so it is a next state with HALTED = 1, and a halted step changes nothing (40_cycle.md R108).
The causes themselves are `Cause`. DEDUCED, log entry 7. -/
inductive Fault
deriving DecidableEq, Repr

/-- The reasons an instruction has no meaning. -/
inductive Refusal where
  /-- Raised by exec's arm of an instruction that has no meaning yet, and by nothing else. Safe: it only stops. No arm
  raises it in this model. -/
  | notModelled (mnemonic : String)
deriving DecidableEq, Repr

/-- CAUSE, the fault codes of 60_exceptions.md R240. "Values 6 and 7 never appear" (10_state.md R34). DEDUCED,
log entry 9. -/
inductive Cause where
  | none
  | decodeError
  | stackOverflow
  | stackUnderflow
  | memoryFault
  | keyIndexFault
deriving DecidableEq, Repr

/-- CONFIG.SHIFT_SOURCE: the register 8xy6 and 8xyE shift (00_scope.md R7, 43_alu.md R152). -/
inductive ShiftSource where
  | vx
  | vy
deriving DecidableEq, Repr

/-- The answer of `load_rom` (70_reset_and_hazards.md R273). Its bit on the port `load_status` is `LoadStatus.code` of
Machine/HostPort.lean. -/
inductive LoadStatus where
  | ok
  | loadError
deriving DecidableEq, Repr

/-- The two key events (10_state.md R47). -/
inductive KeyAction where
  | pressed
  | released
deriving DecidableEq, Repr

/-- memory_4k (10_state.md R32): the cells that differ from the reset image, by strictly rising address. What an unlisted
address reads as is `unlisted` of Machine/Ops.lean, and the canonical form is `Memory.wf` there. DESIGN CHOICE, log
entry 2. -/
abbrev Memory := List Host.Cell

/-- FBP, the packed framebuffer (10_state.md R30): pixel (x, y) is bit `7 - (x % 8)` of byte `8*y + x/8`. -/
abbrev Framebuffer := Vector Byte 256

/-- FONT, 80 bytes (00_scope.md R7). -/
abbrev Font := Vector Byte 80

/-- The state of the core (10_state.md R20: "exactly the following"), with CONFIG of R34 and one field of the model's own. -/
structure State where
  /-- V[0..15] (R21). -/
  v : Vector Byte 16
  /-- I (R25). -/
  i : Word
  /-- PC (R24). -/
  pc : Word
  /-- STACK[0..15] (R26). -/
  stack : Vector Word 16
  /-- SP, the number of occupied entries, 0 to 16 (R27). -/
  sp : Fin 17
  /-- DT (R28). -/
  dt : Byte
  /-- ST (R28). -/
  st : Byte
  /-- M[0..4095] (R32). -/
  mem : Memory
  /-- FB as FBP (R29, R30). -/
  fb : Framebuffer
  /-- KEYS: bit k is KEY[k], 1 means pressed (R31). -/
  keys : BitVec 16
  /-- DRAW (R38). -/
  draw : Bool
  /-- BEEP (R38). -/
  beep : Bool
  /-- HALTED (R40). -/
  halted : Bool
  /-- CAUSE (R34, R40). -/
  cause : Cause
  /-- OPV (R34, R40). -/
  opv : Bool
  /-- FAULT_PC (R34, R40). -/
  faultPc : Word
  /-- FAULT_OPCODE (R34, R40). -/
  faultOpcode : Word
  /-- FAULT_ADDR (R34, R40). -/
  faultAddr : Word
  /-- CONFIG.SHIFT_SOURCE (R34). -/
  shiftSource : ShiftSource
  /-- THE MODEL'S OWN: how many random bytes have been drawn; it picks the next free value. DESIGN CHOICE,
  log entry 1. -/
  draws : Nat
deriving DecidableEq, Repr

/-- The machine right after reset with the default FONT (10_state.md R50, 70_reset_and_hazards.md R270). Memory lists
nothing: an unlisted address reads as the reset image. CONFIG is VX, its power-on value (R34). DEDUCED, log entry 4. -/
def State.reset : State where
  v := Vector.replicate 16 0
  i := 0
  pc := 0x200
  stack := Vector.replicate 16 0
  sp := 0
  dt := 0
  st := 0
  mem := []
  fb := Vector.replicate 256 0
  keys := 0
  draw := false
  beep := false
  halted := false
  cause := .none
  opv := false
  faultPc := 0
  faultOpcode := 0
  faultAddr := 0
  shiftSource := .vx
  draws := 0

end Sys2Proof.Machine
end

