-- ==== Sys2Proof/Machine/Ops.lean ====
section
/-! DEFINITION. The named operations over the state: registers, memory, stack, framebuffer, keypad, the two endings of an
instruction, and fault entry. -/

namespace Sys2Proof.Machine

/-! ## The reset image (70_reset_and_hazards.md R272) -/

/-- The default FONT of R272: glyph g is bytes 5g to 5g + 4. -/
def defaultFont : Font :=
  #v[0xF0, 0x90, 0x90, 0x90, 0xF0, 0x20, 0x60, 0x20, 0x20, 0x70, 0xF0, 0x10, 0xF0, 0x80, 0xF0,
     0xF0, 0x10, 0xF0, 0x10, 0xF0, 0x90, 0x90, 0xF0, 0x10, 0x10, 0xF0, 0x80, 0xF0, 0x10, 0xF0,
     0xF0, 0x80, 0xF0, 0x90, 0xF0, 0xF0, 0x10, 0x20, 0x40, 0x40, 0xF0, 0x90, 0xF0, 0x90, 0xF0,
     0xF0, 0x90, 0xF0, 0x10, 0xF0, 0xF0, 0x90, 0xF0, 0x90, 0x90, 0xE0, 0x90, 0xE0, 0x90, 0xE0,
     0xF0, 0x80, 0x80, 0x80, 0xF0, 0xE0, 0x90, 0x90, 0x90, 0xE0, 0xF0, 0x80, 0xF0, 0x80, 0xF0,
     0xF0, 0x80, 0xF0, 0x80, 0x80]

/-- What an address that memory does not list reads as: the reset contents, FONT at 0x000..0x04F and 0x00 elsewhere
(10_state.md R50). DESIGN CHOICE, log entry 2. -/
def unlisted (a : Nat) : Byte := if h : a < 80 then defaultFont[a] else 0

/-! ## Memory (00_scope.md R12, 20_memory.md) -/

/-- The canonical form from address `lo` up: rising addresses below 4096, no entry equal to the reset image. -/
def Memory.wfFrom (lo : Nat) : Memory → Bool
  | [] => true
  | (a, b) :: rest => decide (lo ≤ a) && decide (a < 4096) && decide (b ≠ unlisted a) && Memory.wfFrom (a + 1) rest

/-- Memory is in its one canonical form. -/
def Memory.wf (m : Memory) : Bool := Memory.wfFrom 0 m

/-- The byte at an address. Callers check the bound (R12); no address from 4096 up is ever listed. -/
def Memory.read : Memory → Nat → Byte
  | [], a => unlisted a
  | (c, d) :: rest, a => if c = a then d else Memory.read rest a

/-- Put a byte at an address, keeping the list sorted and free of entries equal to the reset image. -/
def Memory.put : Memory → Nat → Byte → Memory
  | [], a, b => if b = unlisted a then [] else [(a, b)]
  | (c, d) :: rest, a, b =>
    if a < c then if b = unlisted a then (c, d) :: rest else (a, b) :: (c, d) :: rest
    else if a = c then if b = unlisted a then rest else (a, b) :: rest
    else (c, d) :: Memory.put rest a b

/-- `M[a] <- b`. There is no cell from 4096 up (20_memory.md R69), so nothing is written there; every meaning checks its
range before it writes. -/
def Memory.write (m : Memory) (a : Nat) (b : Byte) : Memory := if a < 4096 then Memory.put m a b else m

/-- Write bytes at rising addresses from `a`. -/
def Memory.writeList : Memory → Nat → List Byte → Memory
  | m, _, [] => m
  | m, a, b :: bs => Memory.writeList (Memory.write m a b) (a + 1) bs

/-- Read `n` bytes at rising addresses from `a`. -/
def Memory.readList (m : Memory) (a : Nat) : Nat → List Byte
  | 0 => []
  | n + 1 => Memory.read m a :: Memory.readList m (a + 1) n

/-- `CheckRange(a, len)` (R12): the address of the MemoryFault it raises, or none. Addresses are naturals: they never wrap. -/
def rangeFault (a len : Nat) : Option Word :=
  if 0 < len ∧ 4096 < a + len then some (BitVec.ofNat 16 (max a 4096)) else none

/-- M[a] of a state. -/
def State.readByte (s : State) (a : Nat) : Byte := Memory.read s.mem a

/-! ## Registers -/

/-- V[r] (10_state.md R21). -/
def State.readV (s : State) (r : Nibble) : Byte := s.v[r.toNat]'r.isLt

/-- `V[r] <- b`. -/
def State.writeV (s : State) (r : Nibble) (b : Byte) : State := { s with v := s.v.set r.toNat b r.isLt }

/-- All of V. -/
def State.setV (s : State) (v : Vector Byte 16) : State := { s with v := v }

/-- `PC <- target` (00_scope.md R13). -/
def State.setPc (s : State) (w : Word) : State := { s with pc := w }

/-- `I <- w`. -/
def State.setI (s : State) (w : Word) : State := { s with i := w }

/-- `DT <- b`. -/
def State.setDt (s : State) (b : Byte) : State := { s with dt := b }

/-- `ST <- b`. -/
def State.setSt (s : State) (b : Byte) : State := { s with st := b }

/-- The whole memory. -/
def State.setMem (s : State) (m : Memory) : State := { s with mem := m }

/-- The framebuffer, and DRAW <- 1 with it (10_state.md R38: "whenever either instruction executes, whether or not a pixel
changed"). -/
def State.setFbDraw (s : State) (fb : Framebuffer) : State := { s with fb := fb, draw := true }

/-- KEYS, which only a host key event writes (10_state.md R31). -/
def State.setKeys (s : State) (k : BitVec 16) : State := { s with keys := k }

/-- CONFIG.SHIFT_SOURCE, which only the host writes (10_state.md R34). -/
def State.setShiftSource (s : State) (src : ShiftSource) : State := { s with shiftSource := src }

/-- One random byte has been drawn. -/
def State.countDraw (s : State) : State := { s with draws := s.draws + 1 }

/-- Push the PC (10_state.md R27: "a push writes STACK[SP] and then increments SP"); none when SP = 16. -/
def State.pushPc (s : State) : Option State :=
  if h : s.sp.val < 16 then
    some { s with stack := s.stack.set s.sp.val s.pc h, sp := ⟨s.sp.val + 1, by omega⟩ }
  else none

/-- Pop into the PC (R27: "a pop decrements SP and then reads STACK[SP]"); none when SP = 0. The entry keeps its value. -/
def State.popPc (s : State) : Option State :=
  if h : 0 < s.sp.val then
    some { s with sp := ⟨s.sp.val - 1, by omega⟩, pc := s.stack[s.sp.val - 1]'(by omega) }
  else none

/-! ## The framebuffer (10_state.md R29, R30) -/

/-- FB[x, y]; a coordinate off the grid has no pixel and reads as off. -/
def pixel (fb : Framebuffer) (x y : Nat) : Bool :=
  if h : x < 64 ∧ y < 32 then (fb[8 * y + x / 8]'(by omega)).getLsbD (7 - x % 8) else false

/-- `FB[x, y] <- FB[x, y] ^ 1`; off the grid nothing changes. -/
def flipPixel (fb : Framebuffer) (x y : Nat) : Framebuffer :=
  if h : x < 64 ∧ y < 32 then
    fb.set (8 * y + x / 8) (fb[8 * y + x / 8]'(by omega) ^^^ (0x80#8 >>> (x % 8))) (by omega)
  else fb

/-- The framebuffer with every pixel off. -/
def clearFb : Framebuffer := Vector.replicate 256 0

/-- One 1-bit of a sprite at (px, py), with the collision so far: clipped to the grid (45_display.md R200), else it flips
the pixel and collides if that pixel was on (R203). -/
def plot (acc : Framebuffer × Bool) (px py : Nat) : Framebuffer × Bool :=
  if px < 64 ∧ py < 32 then (flipPixel acc.1 px py, acc.2 || pixel acc.1 px py) else acc

/-- Column c of a sprite row: bit 7 - c of its byte (45_display.md R201). -/
def drawBit (row : Byte) (a py : Nat) (acc : Framebuffer × Bool) (c : Nat) : Framebuffer × Bool :=
  if row.getLsbD (7 - c) then plot acc (a + c) py else acc

/-- The eight columns of a sprite row, c = 0 to 7. -/
def drawRow (row : Byte) (a py : Nat) (acc : Framebuffer × Bool) : Framebuffer × Bool :=
  (List.range 8).foldl (drawBit row a py) acc

/-- The rows of a sprite, from row b down the screen. -/
def drawRows (a : Nat) : Nat → List Byte → Framebuffer × Bool → Framebuffer × Bool
  | _, [], acc => acc
  | b, row :: rest, acc => drawRows a (b + 1) rest (drawRow row a b acc)

/-! ## The keypad (10_state.md R31) -/

/-- KEY[k]. -/
def State.key (s : State) (k : Nat) : Bool := s.keys.getLsbD k

/-- `min { k | KEY[k] = 1 }` (46_keypad_timer.md R223). -/
def lowestKey (keys : BitVec 16) : Option Nat := (List.range 16).find? fun k => keys.getLsbD k

/-! ## How an instruction ends (00_scope.md R13) -/

/-- The cycle's advance: PC + 2 modulo 2^16 (40_cycle.md R106). -/
def State.advance (s : State) : State := { s with pc := s.pc + 2 }

/-- `skip()` if the condition holds, then the advance (42_skip.md R140). -/
def State.skipIf (s : State) (cond : Bool) : State :=
  if cond then { s with pc := s.pc + 2 }.advance else s.advance

/-! ## Fault entry (60_exceptions.md R245) -/

/-- `raise F(info)`: HALTED and the fault record, and nothing else. `op` is the faulting opcode, none for a fetch fault
(OPV = 0, FAULT_OPCODE = 0); FAULT_ADDR is kept for a MemoryFault only. The entry is a next state:
DEDUCED, log entry 7. -/
def State.raiseFault (s : State) (c : Cause) (op : Option Word) (addr : Word) : State :=
  { s with
    halted := true
    cause := c
    opv := op.isSome
    faultPc := s.pc
    faultOpcode := op.getD 0
    faultAddr := if c = .memoryFault then addr else 0 }

/-- Raise the MemoryFault of a bulk instruction whose range leaves memory, else go on with `ok` (20_memory.md R70: "the
instruction makes no access and changes no state, and the fault is raised"). FAULT_OPCODE is the
instruction's encoding, which is the word fetched: DEDUCED, log entry 8. -/
def guardRange (ins : Instr) (len : Nat) (s ok : State) : Host.Outcome State Fault Refusal :=
  match rangeFault s.i.toNat len with
  | some addr => .next (s.raiseFault .memoryFault (some (encode ins)) addr)
  | none => .next ok

/-- Go on with `ok` if the stack operation gave a state, else raise its StackFault. -/
def guardStack (ins : Instr) (c : Cause) (s : State) (ok : Option State) : Host.Outcome State Fault Refusal :=
  match ok with
  | some t => .next t
  | none => .next (s.raiseFault c (some (encode ins)) 0)

/-- Raise KeyIndexFault when V[x] is no key number, else go on with `ok` (46_keypad_timer.md R220). -/
def guardKey (ins : Instr) (k : Byte) (s ok : State) : Host.Outcome State Fault Refusal :=
  if 0xF < k.toNat then .next (s.raiseFault .keyIndexFault (some (encode ins)) 0) else .next ok

end Sys2Proof.Machine
end

