-- ==== Sys2Proof/Machine/Operands.lean ====
section
/-! DEFINITION. Operand forms (30_encoding.md R83, R84): how immediates and register values become operands. -/

namespace Sys2Proof.Machine

/-- `zext_16(nnn)` (R83: zero-extended, no scaling). -/
def zextAddr (nnn : Addr12) : Word := nnn.setWidth 16

/-- `zext_16(b)` of a register value. -/
def zextByte (b : Byte) : Word := b.setWidth 16

/-- `zext_8(k)` of a key number (46_keypad_timer.md R223). -/
def keyByte (k : Nat) : Byte := BitVec.ofNat 8 k

/-- The operand of a shift: V[x], or V[y] when SHIFT_SOURCE = VY (43_alu.md R152). -/
def State.shiftOperand (s : State) (x y : Nibble) : Byte :=
  match s.shiftSource with
  | .vx => s.readV x
  | .vy => s.readV y

/-- The address of glyph b, `zext_16(b) * 5`, not masked (44_index_memory.md R183). -/
def glyphAddr (b : Byte) : Word := zextByte b * 5

/-- The three decimal digits of a byte, hundreds first (R184). -/
def bcdDigits (b : Byte) : List Byte :=
  [BitVec.ofNat 8 (b.toNat / 100), BitVec.ofNat 8 (b.toNat / 10 % 10), BitVec.ofNat 8 (b.toNat % 10)]

/-- V[0] to V[x], inclusive (R185). -/
def State.firstRegs (s : State) (x : Nibble) : List Byte := s.v.toList.take (x.toNat + 1)

/-- V with V[j] loaded from M[I + j] for j = 0 to x, inclusive (R186). -/
def State.loadedRegs (s : State) (x : Nibble) : Vector Byte 16 :=
  Vector.ofFn fun j : Fin 16 => if j.val ≤ x.toNat then s.readByte (s.i.toNat + j.val) else s.v[j]

end Sys2Proof.Machine
end

