-- ==== Sys2Proof/Machine/Flags.lean ====
section
/-! DEFINITION. The flag computations: the five operations of 43_alu.md that set VF, each from the operands before the
instruction, and the order of the writes (R150). -/

namespace Sys2Proof.Machine

/-- `zext_8(f)` of a one-bit flag: "0 or 1 and no other value" (R151). -/
def flagByte (f : Bool) : Byte := if f then 1 else 0

/-- The carry of a + b: 1 iff the exact sum exceeds 255 (R159). -/
def carryFlag (a b : Byte) : Bool := 255 < a.toNat + b.toNat

/-- The comparison flag: 1 iff a > b, strictly (R160, R162). -/
def greaterFlag (a b : Byte) : Bool := b.toNat < a.toNat

/-- The bit 8xy6 shifts out, s[0] (R161). -/
def lowBit (a : Byte) : Bool := a.getLsbD 0

/-- The bit 8xyE shifts out, s[7] (R163). -/
def highBit (a : Byte) : Bool := a.getLsbD 7

/-- `(a + b) mod 256`: the exact sum, narrowed (R151). -/
def sumByte (a b : Byte) : Byte := BitVec.ofNat 8 (a.toNat + b.toNat)

/-- `(a - b) mod 256`: the exact difference, narrowed (R151). -/
def diffByte (a b : Byte) : Byte := BitVec.ofInt 8 ((a.toNat : Int) - (b.toNat : Int))

/-- V[x] <- r, then VF <- f: "VF last: when x = 0xF, VF ends as the flag" (R150). -/
def State.writeFlagged (s : State) (x : Nibble) (r : Byte) (f : Bool) : State :=
  (s.writeV x r).writeV 0xF (flagByte f)

end Sys2Proof.Machine
end

