-- ==== Sys2Proof/Machine/Alu.lean ====
section
/-! DEFINITION. Register loads and arithmetic (43_alu.md). -/

namespace Sys2Proof.Machine

/-- 6xkk (R153): V[x] <- kk. -/
def execLdImm (x : Nibble) (kk : Byte) (s : State) : Host.Outcome State Fault Refusal :=
  .next (s.writeV x kk).advance

/-- 7xkk (R154): V[x] <- V[x] + kk mod 256, no flag. -/
def execAddImm (x : Nibble) (kk : Byte) (s : State) : Host.Outcome State Fault Refusal :=
  .next (s.writeV x (sumByte (s.readV x) kk)).advance

/-- 8xy0 (R155): V[x] <- V[y]. -/
def execLdReg (x y : Nibble) (s : State) : Host.Outcome State Fault Refusal :=
  .next (s.writeV x (s.readV y)).advance

/-- 8xy1 (R156): V[x] <- V[x] | V[y]. -/
def execOrReg (x y : Nibble) (s : State) : Host.Outcome State Fault Refusal :=
  .next (s.writeV x (s.readV x ||| s.readV y)).advance

/-- 8xy2 (R157): V[x] <- V[x] & V[y]. -/
def execAndReg (x y : Nibble) (s : State) : Host.Outcome State Fault Refusal :=
  .next (s.writeV x (s.readV x &&& s.readV y)).advance

/-- 8xy3 (R158): V[x] <- V[x] ^ V[y]. -/
def execXorReg (x y : Nibble) (s : State) : Host.Outcome State Fault Refusal :=
  .next (s.writeV x (s.readV x ^^^ s.readV y)).advance

/-- 8xy4 (R159): V[x] <- V[x] + V[y] mod 256, VF the carry. -/
def execAddReg (x y : Nibble) (s : State) : Host.Outcome State Fault Refusal :=
  .next (s.writeFlagged x (sumByte (s.readV x) (s.readV y)) (carryFlag (s.readV x) (s.readV y))).advance

/-- 8xy5 (R160): V[x] <- V[x] - V[y] mod 256, VF = 1 iff V[x] > V[y]. -/
def execSub (x y : Nibble) (s : State) : Host.Outcome State Fault Refusal :=
  .next (s.writeFlagged x (diffByte (s.readV x) (s.readV y)) (greaterFlag (s.readV x) (s.readV y))).advance

/-- 8xy6 (R161): V[x] <- s >> 1, VF the bit shifted out, s by R152. -/
def execShr (x y : Nibble) (s : State) : Host.Outcome State Fault Refusal :=
  .next (s.writeFlagged x (s.shiftOperand x y >>> 1) (lowBit (s.shiftOperand x y))).advance

/-- 8xy7 (R162): V[x] <- V[y] - V[x] mod 256, VF = 1 iff V[y] > V[x]. -/
def execSubn (x y : Nibble) (s : State) : Host.Outcome State Fault Refusal :=
  .next (s.writeFlagged x (diffByte (s.readV y) (s.readV x)) (greaterFlag (s.readV y) (s.readV x))).advance

/-- 8xyE (R163): V[x] <- s << 1 mod 256, VF the bit shifted out, s by R152. -/
def execShl (x y : Nibble) (s : State) : Host.Outcome State Fault Refusal :=
  .next (s.writeFlagged x (s.shiftOperand x y <<< 1) (highBit (s.shiftOperand x y))).advance

/-- Cxkk (R164): V[x] <- rnd & kk, rnd the next free byte. DESIGN CHOICE, log entry 1. -/
def execRnd (x : Nibble) (kk : Byte) (s : State) : Host.Outcome State Fault Refusal :=
  .next (s.writeV x (Config.randomByte s.draws &&& kk)).countDraw.advance

end Sys2Proof.Machine
end

