-- ==== Sys2Proof/Machine/Control.lean ====
section
/-! DEFINITION. Control transfer (41_control.md). -/

namespace Sys2Proof.Machine

/-- 1nnn (R131): PC <- nnn. -/
def execJp (nnn : Addr12) (s : State) : Host.Outcome State Fault Refusal := .next (s.setPc (zextAddr nnn))

/-- 2nnn (R132): push the address of this CALL, PC <- nnn; StackOverflow when SP = 16. -/
def execCall (nnn : Addr12) (s : State) : Host.Outcome State Fault Refusal :=
  guardStack (.call nnn) .stackOverflow s (s.pushPc.map fun t => t.setPc (zextAddr nnn))

/-- 00EE (R133): pop the address of the matching CALL into PC and advance past it; StackUnderflow when SP = 0. -/
def execRet (s : State) : Host.Outcome State Fault Refusal :=
  guardStack .ret .stackUnderflow s (s.popPc.map State.advance)

/-- Bnnn (R134): PC <- V[0] + nnn. -/
def execJpV0 (nnn : Addr12) (s : State) : Host.Outcome State Fault Refusal :=
  .next (s.setPc (zextByte (s.readV 0) + zextAddr nnn))

end Sys2Proof.Machine
end

