-- ==== Sys2Proof/Machine/Display.lean ====
section
/-! DEFINITION. Display (45_display.md). -/

namespace Sys2Proof.Machine

/-- 00E0 (R202): every pixel off, DRAW <- 1. -/
def execCls (s : State) : Host.Outcome State Fault Refusal := .next (s.setFbDraw clearFb).advance

/-- The framebuffer and the collision of drawing the n rows at M[I..I+n) at (V[x], V[y]) (R203). -/
def State.drawSprite (s : State) (x y n : Nibble) : Framebuffer × Bool :=
  drawRows (s.readV x).toNat (s.readV y).toNat (Memory.readList s.mem s.i.toNat n.toNat) (s.fb, false)

/-- Dxyn (R203): check the range, draw with XOR and clipping, VF <- collision, DRAW <- 1. The pseudocode decides where the
remark on drawing twice says more: DEDUCED, log entry 5. -/
def execDrw (x y n : Nibble) (s : State) : Host.Outcome State Fault Refusal :=
  guardRange (.drw x y n) n.toNat s
    ((s.writeV 0xF (flagByte (s.drawSprite x y n).2)).setFbDraw (s.drawSprite x y n).1).advance

end Sys2Proof.Machine
end

