-- ==== Sys2Proof/Machine/IndexMemory.lean ====
section
/-! DEFINITION. Index register and memory transfers (44_index_memory.md). No instruction here changes I by accessing memory
(R180). -/

namespace Sys2Proof.Machine

/-- Annn (R181): I <- nnn. -/
def execLdI (nnn : Addr12) (s : State) : Host.Outcome State Fault Refusal := .next (s.setI (zextAddr nnn)).advance

/-- Fx1E (R182): I <- I + V[x] mod 2^16, VF unchanged. -/
def execAddI (x : Nibble) (s : State) : Host.Outcome State Fault Refusal :=
  .next (s.setI (s.i + zextByte (s.readV x))).advance

/-- Fx29 (R183): I <- V[x] * 5. -/
def execLdF (x : Nibble) (s : State) : Host.Outcome State Fault Refusal :=
  .next (s.setI (glyphAddr (s.readV x))).advance

/-- Fx33 (R184): the three digits of V[x] to M[I..I+2]. -/
def execLdB (x : Nibble) (s : State) : Host.Outcome State Fault Refusal :=
  guardRange (.ldB x) 3 s (s.setMem (Memory.writeList s.mem s.i.toNat (bcdDigits (s.readV x)))).advance

/-- Fx55 (R185): V[0..x] to M[I..I+x]. -/
def execStoreRegs (x : Nibble) (s : State) : Host.Outcome State Fault Refusal :=
  guardRange (.storeRegs x) (x.toNat + 1) s (s.setMem (Memory.writeList s.mem s.i.toNat (s.firstRegs x))).advance

/-- Fx65 (R186): M[I..I+x] to V[0..x]. -/
def execLoadRegs (x : Nibble) (s : State) : Host.Outcome State Fault Refusal :=
  guardRange (.loadRegs x) (x.toNat + 1) s (s.setV (s.loadedRegs x)).advance

end Sys2Proof.Machine
end

