-- ==== Sys2Proof/Machine/KeypadTimer.lean ====
section
/-! DEFINITION. Keypad and timers (46_keypad_timer.md). -/

namespace Sys2Proof.Machine

/-- Ex9E (R221): skip if key V[x] is pressed; KeyIndexFault when V[x] > 0xF. -/
def execSkp (x : Nibble) (s : State) : Host.Outcome State Fault Refusal :=
  guardKey (.skp x) (s.readV x) s (s.skipIf (s.key (s.readV x).toNat))

/-- ExA1 (R222): skip if key V[x] is not pressed; KeyIndexFault when V[x] > 0xF. -/
def execSknp (x : Nibble) (s : State) : Host.Outcome State Fault Refusal :=
  guardKey (.sknp x) (s.readV x) s (s.skipIf (!s.key (s.readV x).toNat))

/-- Fx07 (R224): V[x] <- DT, as this step's tick left it. -/
def execLdVxDt (x : Nibble) (s : State) : Host.Outcome State Fault Refusal := .next (s.writeV x s.dt).advance

/-- Fx0A (R223): the lowest pressed key to V[x], or, while no key is pressed, no change and no advance. -/
def execLdVxK (x : Nibble) (s : State) : Host.Outcome State Fault Refusal :=
  match lowestKey s.keys with
  | some k => .next (s.writeV x (keyByte k)).advance
  | none => .next s

/-- Fx15 (R225): DT <- V[x]. -/
def execLdDtVx (x : Nibble) (s : State) : Host.Outcome State Fault Refusal := .next (s.setDt (s.readV x)).advance

/-- Fx18 (R226): ST <- V[x]; BEEP is not set by the write. -/
def execLdStVx (x : Nibble) (s : State) : Host.Outcome State Fault Refusal := .next (s.setSt (s.readV x)).advance

end Sys2Proof.Machine
end

