-- ==== Sys2Proof/Machine/Skip.lean ====
section
/-! DEFINITION. Conditional skips (42_skip.md). -/

namespace Sys2Proof.Machine

/-- 3xkk (R141): skip if V[x] = kk. -/
def execSeImm (x : Nibble) (kk : Byte) (s : State) : Host.Outcome State Fault Refusal :=
  .next (s.skipIf (s.readV x = kk))

/-- 4xkk (R142): skip if V[x] ≠ kk. -/
def execSneImm (x : Nibble) (kk : Byte) (s : State) : Host.Outcome State Fault Refusal :=
  .next (s.skipIf (s.readV x ≠ kk))

/-- 5xy0 (R143): skip if V[x] = V[y]. -/
def execSeReg (x y : Nibble) (s : State) : Host.Outcome State Fault Refusal :=
  .next (s.skipIf (s.readV x = s.readV y))

/-- 9xy0 (R144): skip if V[x] ≠ V[y]. -/
def execSneReg (x y : Nibble) (s : State) : Host.Outcome State Fault Refusal :=
  .next (s.skipIf (s.readV x ≠ s.readV y))

end Sys2Proof.Machine
end

