-- ==== Sys2Proof/Machine/Cycle.lean ====
section
/-! DEFINITION. One cycle of the instruction_dispatch_fsm (40_cycle.md R100): flag clear, tick, fetch, decode, execute. -/

namespace Sys2Proof.Machine

/-- CLEAR: DRAW <- 0, BEEP <- 0 (R102). -/
def State.clearFlags (s : State) : State := { s with draw := false, beep := false }

/-- A timer's tick: "clamp at zero, never underflow" (R103). -/
def tickTimer (t : Byte) : Byte := if t = 0 then 0 else t - 1

/-- TICK: both timers, and BEEP <- 1 when ST goes from 1 to 0 (R103). -/
def State.tick (s : State) : State :=
  { s with dt := tickTimer s.dt, st := tickTimer s.st, beep := if s.st = 1 then true else s.beep }

/-- The state after CLEAR and TICK, in that order: "the clear comes before the tick" (R102). -/
def State.begun (s : State) : State := s.clearFlags.tick

/-- The fetch bound: PC and PC + 1 are both in memory (R104). -/
def State.fetchInRange (s : State) : Bool := s.pc.toNat + 1 ≤ 0xFFF

/-- The opcode at PC, big-endian; PC is not changed (R105, 20_memory.md R62). -/
def State.fetchOp (s : State) : Word := wordOfBytes (s.readByte s.pc.toNat) (s.readByte (s.pc.toNat + 1))

/-- FAULT_ADDR of a fetch fault: max(PC, 0x1000) (R104). -/
def State.fetchFaultAddr (s : State) : Word := BitVec.ofNat 16 (max s.pc.toNat 0x1000)

/-- FETCH, DECODE and EXECUTE on the state that CLEAR and TICK left (R100, R107). -/
def State.dispatch (s : State) : Host.Outcome State Fault Refusal :=
  if s.fetchInRange then
    match decode s.fetchOp with
    | some i => exec i s
    | none => .next (s.raiseFault .decodeError (some s.fetchOp) 0)
  else .next (s.raiseFault .memoryFault none s.fetchFaultAddr)

/-- `step(rnd)` (R100). A halted core changes nothing (R108). -/
def State.cycle (s : State) : Host.Outcome State Fault Refusal :=
  if s.halted then .next s else s.begun.dispatch

/-- The word stored at PC in memory order, and HALTED cleared, which a fetch needs: the next cycle fetches this word if
PC is below 0xFFF. It stands for a load from outside: DEDUCED, log entry 3. -/
def State.placeWord (s : State) (w : Word) : State :=
  { s with mem := Memory.writeList s.mem s.pc.toNat [highByte w, lowByte w], halted := false }

end Sys2Proof.Machine
end

