-- ==== Sys2Proof/Machine/Step.lean ====
section
/-! DEFINITION. One step of the machine (40_cycle.md R100), and the state in which the next step runs a given word. -/

namespace Sys2Proof.Machine

/-- One step: one cycle. Time and the port signals are left out: DEDUCED, log entry 10. -/
def step (s : State) : Host.Outcome State Fault Refusal := s.cycle

/-- The state with the instruction of these bits stored where step fetches next, at PC. -/
def State.withFetchWord (s : State) (nbits w : Nat) : State := s.placeWord (tableWord nbits w)

end Sys2Proof.Machine
end

