-- ==== Sys2Proof/Machine/HostPort.lean ====
section
/-! DEFINITION. The block's boundary with its host (10_state.md R34, R45 to R47; 70_reset_and_hazards.md R270, R273):
the host's operations between steps and the registers it reads. That they come between steps and never inside one is DEDUCED,
log entry 6. -/

namespace Sys2Proof.Machine

/-- `reset()` with FONT as a parameter (R270, R272): every state element at its value of R50, CONFIG unchanged. The model's
own draw counter is kept, so that a draw after a reset is a new free byte. -/
def State.hostReset (s : State) (font : Font) : State :=
  { State.reset with
    mem := Memory.writeList State.reset.mem 0 font.toList
    shiftSource := s.shiftSource
    draws := s.draws }

/-- `load_rom(bytes)` (R273): too long a ROM changes nothing (R274); else reset, then copy to 0x200. -/
def State.loadRom (s : State) (font : Font) (bytes : List Byte) : LoadStatus × State :=
  if romWellFormed bytes then
    (.ok, (s.hostReset font).setMem (Memory.writeList (s.hostReset font).mem 0x200 bytes))
  else (.loadError, s)

/-- The port `load_status`, one bit (R46): 0 = OK, 1 = LOAD_ERROR. -/
def LoadStatus.code : LoadStatus → BitVec 1
  | .ok => 0
  | .loadError => 1

/-- `key_event(k, p)` (R47): KEY[k] <- (p = Pressed), nothing else. `key_id` is 4 bits wide (R46). -/
def State.keyEvent (s : State) (k : Nibble) (p : KeyAction) : State :=
  match p with
  | .pressed => s.setKeys (s.keys ||| BitVec.twoPow 16 k.toNat)
  | .released => s.setKeys (s.keys &&& ~~~ BitVec.twoPow 16 k.toNat)

/-- CAUSE's code (60_exceptions.md R240). -/
def Cause.code : Cause → BitVec 3
  | .none => 0
  | .decodeError => 1
  | .stackOverflow => 2
  | .stackUnderflow => 3
  | .memoryFault => 4
  | .keyIndexFault => 5

/-- FLAGS (10_state.md R34): bit 0 DRAW, bit 1 BEEP, bits 7:2 read 0. -/
def State.flagsReg (s : State) : BitVec 8 := 0#6 ++ BitVec.ofBool s.beep ++ BitVec.ofBool s.draw

/-- STATUS (R34): bit 0 HALTED, bits 3:1 CAUSE, bit 4 OPV, bits 7:5 read 0. -/
def State.statusReg (s : State) : BitVec 8 := 0#3 ++ BitVec.ofBool s.opv ++ s.cause.code ++ BitVec.ofBool s.halted

/-- CONFIG (R34): bit 0 SHIFT_SOURCE, 0 = VX and 1 = VY, bits 7:1 read 0. -/
def State.configReg (s : State) : BitVec 8 := 0#7 ++ BitVec.ofBool (s.shiftSource = .vy)

/-- The port `cfg_shift_vy` (R46): the host drives CONFIG.SHIFT_SOURCE between steps. -/
def State.driveConfig (s : State) (shiftVy : Bool) : State :=
  s.setShiftSource (if shiftVy then .vy else .vx)

/-- The host reads byte k of FBP (R30, R34). -/
def State.readFbp (s : State) (k : Byte) : Byte := s.fb[k.toNat]'k.isLt

end Sys2Proof.Machine
end

