-- ==== Sys2Proof/Safety.lean ====
section
/-! DEFINITION. The terms claims are stated in: frames, fault entry, what the next step fetches, sprite pixels, the
invariants, and what the host may do. -/

namespace Sys2Proof

open Machine

/-! ## Frames (00_scope.md R15) -/

/-- The components of the state (10_state.md R20, R34), HALTED and its record as one. -/
inductive Component where
  | regs | i | pc | stack | sp | dt | st | mem | fb | keys | draw | beep | halt | config | draws
deriving DecidableEq, Repr

/-- A component has the same value in both states: memory by the read of every byte, the framebuffer by every pixel. -/
def Component.Same (s t : State) : Component → Prop
  | .regs => ∀ r, t.readV r = s.readV r
  | .i => t.i = s.i
  | .pc => t.pc = s.pc
  | .stack => ∀ j : Fin 16, t.stack[j] = s.stack[j]
  | .sp => t.sp = s.sp
  | .dt => t.dt = s.dt
  | .st => t.st = s.st
  | .mem => ∀ a, t.readByte a = s.readByte a
  | .fb => ∀ x y, pixel t.fb x y = pixel s.fb x y
  | .keys => t.keys = s.keys
  | .draw => t.draw = s.draw
  | .beep => t.beep = s.beep
  | .halt => t.halted = s.halted ∧ t.cause = s.cause ∧ t.opv = s.opv ∧ t.faultPc = s.faultPc ∧
      t.faultOpcode = s.faultOpcode ∧ t.faultAddr = s.faultAddr
  | .config => t.shiftSource = s.shiftSource
  | .draws => t.draws = s.draws

/-- The frame: every component not named keeps its value. -/
def UnchangedBut (named : List Component) (s t : State) : Prop := ∀ c, c ∉ named → c.Same s t

/-- Every general register but x keeps its value. -/
def OtherRegsSame (x : Nibble) (s t : State) : Prop := ∀ r, r ≠ x → t.readV r = s.readV r

/-- Every general register but x and VF keeps its value. -/
def OtherRegsSameButVF (x : Nibble) (s t : State) : Prop := ∀ r, r ≠ x → r ≠ 0xF → t.readV r = s.readV r

/-! ## Faults (60_exceptions.md R245) -/

/-- `t` is the fault entry of `s` for cause `c`: the record is written, and nothing else changes. -/
def FaultEntry (c : Cause) (op : Option Word) (addr : Word) (s t : State) : Prop :=
  t.halted = true ∧ t.cause = c ∧ t.opv = op.isSome ∧ t.faultPc = s.pc ∧ t.faultOpcode = op.getD 0 ∧
    t.faultAddr = addr ∧ UnchangedBut [.halt] s t

/-- FAULT_ADDR of a MemoryFault whose access starts at `a`: max(a, 0x1000) (R240). -/
def firstOutOfRange (a : Word) : Word := if a.toNat < 0x1000 then 0x1000 else a

/-! ## What the next step runs (40_cycle.md R100) -/

/-- The opcode at PC: M[PC] high, M[PC + 1] low. -/
def opcodeAt (s : State) : Word := s.readByte s.pc.toNat ++ s.readByte (s.pc.toNat + 1)

/-- The next step of a running core executes instruction i. -/
def Executes (s : State) (i : Instr) : Prop :=
  s.halted = false ∧ s.pc.toNat + 1 ≤ 0xFFF ∧ decode (opcodeAt s) = some i

/-- A timer after one tick (R103). -/
def ticked (t : Byte) : Byte := if t = 0 then 0 else t - 1

/-- The instruction may write V[r]: the last column of the table of 10_state.md R22. -/
def Instr.writesV (i : Instr) (r : Nibble) : Bool :=
  match i with
  | .ldImm x _ | .addImm x _ | .rnd x _ | .ldReg x _ | .orReg x _ | .andReg x _ | .xorReg x _ | .ldVxDt x | .ldVxK x =>
    r = x
  | .addReg x _ | .sub x _ | .shr x _ | .subn x _ | .shl x _ => r = x || r = 0xF
  | .drw _ _ _ => r = 0xF
  | .loadRegs x => r.toNat ≤ x.toNat
  | .cls | .ret | .jp _ | .call _ | .seImm _ _ | .sneImm _ _ | .seReg _ _ | .sneReg _ _ | .ldI _ | .jpV0 _ | .skp _
  | .sknp _ | .ldDtVx _ | .ldStVx _ | .addI _ | .ldF _ | .ldB _ | .storeRegs _ => false

/-! ## Sprites (45_display.md R200, R201, R203) -/

/-- The sprite of n rows at M[I..I+n), drawn at (V[x], V[y]), has a 1-bit at pixel (px, py) of the grid. -/
def spriteBit (s : State) (x y n : Nibble) (px py : Nat) : Bool :=
  decide (px < 64 ∧ py < 32 ∧ (s.readV x).toNat ≤ px ∧ px < (s.readV x).toNat + 8 ∧ (s.readV y).toNat ≤ py ∧
    py < (s.readV y).toNat + n.toNat) &&
  (s.readByte (s.i.toNat + (py - (s.readV y).toNat))).getLsbD (7 - (px - (s.readV x).toNat))

/-! ## Invariants -/

/-- Memory is in its canonical form (the model's own, log entry 2). -/
def MemoryCanonical (s : State) : Prop := Memory.wf s.mem = true

/-- 10_state.md R24: PC never passes 0x10FE; the return addresses on the stack are addresses a CALL was fetched from. -/
def PcBounded (s : State) : Prop := s.pc.toNat ≤ 0x10FE ∧ ∀ j : Fin 16, (s.stack[j]).toNat ≤ 0xFFE

/-- 10_state.md R34, R40 and 60_exceptions.md R240, R245, R246: a running core has an empty fault record; a halted one has a
cause, its record names PC, and each field of the record has the form R240 gives it. -/
def HaltRecordConsistent (s : State) : Prop :=
  (s.halted = false → s.cause = .none ∧ s.opv = false ∧ s.faultPc = 0 ∧ s.faultOpcode = 0 ∧ s.faultAddr = 0) ∧
  (s.halted = true → s.cause ≠ .none ∧ s.faultPc = s.pc ∧ s.draw = false) ∧
  (s.opv = false → s.faultOpcode = 0) ∧
  (s.halted = true → s.opv = false → s.cause = .memoryFault) ∧
  (s.cause = .memoryFault → 0x1000 ≤ s.faultAddr.toNat) ∧
  (s.cause ≠ .memoryFault → s.faultAddr = 0)

/-- A run is safe while no step has raised a fault. -/
def Running (s : State) : Prop := s.halted = false

/-! ## The host (10_state.md R45, R49) -/

/-- What the host may do between steps, a step among it; "a model gives the host no other move" (R49). -/
inductive HostOp where
  | reset
  | loadRom (bytes : List Byte)
  | step
  | keyEvent (k : Nibble) (p : KeyAction)
  | driveConfig (shiftVy : Bool)
deriving DecidableEq, Repr

/-- One operation of the host on the core, with FONT as the parameter of reset and load. -/
def HostOp.apply (font : Font) (s : State) : HostOp → State
  | .reset => s.hostReset font
  | .loadRom bytes => (s.loadRom font bytes).2
  | .step => match Machine.step s with
    | .next t => t
    | .fault _ => s
    | .refused _ => s
  | .keyEvent k p => s.keyEvent k p
  | .driveConfig b => s.driveConfig b

/-- The states the core can be in: from reset, by the host's operations. -/
inductive Reachable (font : Font) : State → Prop where
  | reset : Reachable font (State.reset.hostReset font)
  | op (s : State) (o : HostOp) : Reachable font s → Reachable font (o.apply font s)

end Sys2Proof
end

