-- ==== Sys2Proof/Certificates/Slice0/Obligations.lean ====
section
/-! DEFINITION. The statements for the provers, from the numbered rules of spec/. Each instruction's statement says its
encoding, that exec answers a next state, what that state holds, and its frame. -/

section

open Sys2Proof Sys2Proof.Machine

/-! ## Decode and encode (30_encoding.md) -/

/-- R82, R85, R86, R88: decode of encode is the instruction itself, for every instruction and every operand value; the same
through the two bytes in memory order, whatever follows them. -/
def Obligations.DecodeEncodeRoundTrip : Prop :=
  ∀ (i : Instr) (rest : List Byte),
    decode (encode i) = some i ∧ decodeBytes (encodeBytes i ++ rest) = .ok (i, rest)

/-- R86 ("dispatch must route to exactly one semantic"): an instruction has one word, the one encode gives, so no bit of
a legal word is dropped by decoding it. -/
def Obligations.DecodedWordIsTheEncodedWord : Prop :=
  ∀ (op : Word) (i : Instr), decode op = some i → encode i = op

/-- R85, R86, R93 ("Together the rows select exactly the words that rule R85 accepts"): a word decodes exactly when some row
of the opcode table selects it; the row has the instruction's mnemonic and format; no two rows select one word. -/
def Obligations.TableSelectsExactlyDecodedWords : Prop :=
  ∀ op : Word,
    ((decode op).isSome = true ↔ ∃ r ∈ opcodeTable, r.selects op = true) ∧
    (∀ i, decode op = some i →
      ∃ r ∈ opcodeTable, r.selects op = true ∧ r.mnemonic = i.mnemonic ∧ r.format = i.format) ∧
    (∀ r₁ ∈ opcodeTable, ∀ r₂ ∈ opcodeTable, r₁.selects op = true → r₂.selects op = true → r₁ = r₂)

/-- R90: exactly these words are illegal, written by their nibbles h, x, y, n. -/
def Obligations.IllegalWordsAreExactlyTheListed : Prop :=
  ∀ h x y n : Nibble,
    decode (h ++ x ++ y ++ n) = none ↔
      (h = 0x0 ∧ ¬(x = 0x0 ∧ y = 0xE ∧ (n = 0x0 ∨ n = 0xE))) ∨
      ((h = 0x5 ∨ h = 0x9) ∧ n ≠ 0x0) ∨
      (h = 0x8 ∧ (n = 0x8 ∨ n = 0x9 ∨ n = 0xA ∨ n = 0xB ∨ n = 0xC ∨ n = 0xD ∨ n = 0xF)) ∨
      (h = 0xE ∧ ¬((y = 0x9 ∧ n = 0xE) ∨ (y = 0xA ∧ n = 0x1))) ∨
      (h = 0xF ∧ ¬((y = 0x0 ∧ (n = 0x7 ∨ n = 0xA)) ∨ (y = 0x1 ∧ (n = 0x5 ∨ n = 0x8 ∨ n = 0xE)) ∨
        (y = 0x2 ∧ n = 0x9) ∨ (y = 0x3 ∧ n = 0x3) ∨ (y = 0x5 ∧ n = 0x5) ∨ (y = 0x6 ∧ n = 0x5)))

/-- Words written out bit by bit from the patterns of R82, one or two of each family. -/
def Obligations.WrittenWordsDecode : Prop :=
  decode 0b0010001100000000 = some (.call 0x300) ∧
  decode 0b0011001001000010 = some (.seImm 0x2 0x42) ∧
  decode 0b1000000100101110 = some (.shl 0x1 0x2) ∧
  decode 0b1111001101010101 = some (.storeRegs 0x3) ∧
  decode 0b1101000000010101 = some (.drw 0x0 0x1 0x5) ∧
  decode 0b1110010110011110 = some (.skp 0x5)

/-! ## The cycle (40_cycle.md) -/

/-- R100, R102, R103, R105, R107: when the two bytes at PC decode to an instruction, a step of a running core is exec of that
instruction on the state in which DRAW is cleared, BEEP says whether the tick takes ST from 1 to 0, both timers have been
ticked, and nothing else has changed: PC is still the instruction's address. -/
def Obligations.StepRunsDecodedInstruction : Prop :=
  ∀ (s : State) (i : Instr), Executes s i →
    ∃ b : State, step s = exec i b ∧
      b.draw = false ∧ b.beep = decide (s.st = 1) ∧ b.dt = ticked s.dt ∧ b.st = ticked s.st ∧ b.mem = s.mem ∧
      b.fb = s.fb ∧ UnchangedBut [.draw, .beep, .dt, .st] s b

/-- R108: a step of a halted core changes nothing. -/
def Obligations.HaltedStepChangesNothing : Prop :=
  ∀ s : State, s.halted = true → step s = .next s

/-- R104: a fetch with PC >= 0xFFF raises MemoryFault, with OPV = 0, FAULT_OPCODE = 0 and FAULT_ADDR = max(PC, 0x1000); the
flag clear and the tick have happened. -/
def Obligations.FetchPastMemoryFaults : Prop :=
  ∀ s : State, s.halted = false → 0xFFF ≤ s.pc.toNat →
    ∃ t, step s = .next t ∧ t.halted = true ∧ t.cause = .memoryFault ∧ t.opv = false ∧ t.faultPc = s.pc ∧
      t.faultOpcode = 0 ∧ t.faultAddr.toNat = max s.pc.toNat 0x1000 ∧ t.draw = false ∧
      t.beep = decide (s.st = 1) ∧ t.dt = ticked s.dt ∧ t.st = ticked s.st ∧
      UnchangedBut [.halt, .draw, .beep, .dt, .st] s t

/-- R89, R241: a step that fetches a word outside the patterns raises DecodeError, with the word and its address in the
record; nothing is executed. -/
def Obligations.IllegalWordRaisesDecodeError : Prop :=
  ∀ s : State, s.halted = false → s.pc.toNat + 1 ≤ 0xFFF → decode (opcodeAt s) = none →
    ∃ t, step s = .next t ∧ t.halted = true ∧ t.cause = .decodeError ∧ t.opv = true ∧ t.faultPc = s.pc ∧
      t.faultOpcode = opcodeAt s ∧ t.faultAddr = 0 ∧ t.draw = false ∧ t.beep = decide (s.st = 1) ∧
      t.dt = ticked s.dt ∧ t.st = ticked s.st ∧ UnchangedBut [.halt, .draw, .beep, .dt, .st] s t

/-- THE MODEL'S READING (log entry 7): a fault of the core (R245, fault entry) is a next state, and so is a step of a halted
core (R108); no step of this machine answers the interface's fault or refusal. -/
def Obligations.EveryStepAnswersANextState : Prop :=
  ∀ s : State, ∃ t, step s = .next t

/-- R102: after a step of a running core, DRAW is 1 exactly when a 00E0 or Dxyn executed in it without a fault, and BEEP is
1 exactly when this step's tick took ST from 1 to 0, whatever the instruction. -/
def Obligations.DrawAndBeepArePulses : Prop :=
  ∀ s t : State, s.halted = false → step s = .next t →
    t.beep = decide (s.st = 1) ∧
    (t.draw = true ↔ t.halted = false ∧ (Executes s .cls ∨ ∃ x y n, Executes s (.drw x y n)))

/-- R103: the timers tick once in every step of a running core, a step that faults among them; only an Fx15 or an Fx18 of
the same step leaves another value, the V[x] it wrote; an Fx07 of the same step reads the ticked DT; BEEP is this step's tick
of ST from 1 to 0 and nothing else, an Fx18 among the nothing else. -/
def Obligations.TimersTickOncePerStep : Prop :=
  ∀ s t : State, s.halted = false → step s = .next t →
    (t.dt = ticked s.dt ∨ ∃ x, Executes s (.ldDtVx x) ∧ t.dt = s.readV x) ∧
    (t.st = ticked s.st ∨ ∃ x, Executes s (.ldStVx x) ∧ t.st = s.readV x) ∧
    (∀ x, Executes s (.ldDtVx x) → t.dt = s.readV x) ∧ (∀ x, Executes s (.ldStVx x) → t.st = s.readV x) ∧
    (∀ x, Executes s (.ldVxDt x) → t.readV x = ticked s.dt) ∧ t.beep = decide (s.st = 1)

/-! ## Whole-machine rules (10_state.md, 60_exceptions.md) -/

/-- R245, R246: faults are precise. When a step halts the core, V, I, PC, SP, STACK, M, FB, KEYS and CONFIG keep their
values, the tick and the flag clear are kept, and the record names a cause, PC and the opcode fetched. -/
def Obligations.FaultsArePrecise : Prop :=
  ∀ s t : State, s.halted = false → step s = .next t → t.halted = true →
    UnchangedBut [.halt, .draw, .beep, .dt, .st] s t ∧
    t.draw = false ∧ t.beep = decide (s.st = 1) ∧ t.dt = ticked s.dt ∧ t.st = ticked s.st ∧
    t.cause ≠ .none ∧ t.faultPc = s.pc ∧
    (t.opv = false ↔ 0xFFF ≤ s.pc.toNat) ∧ t.faultOpcode = (if t.opv then opcodeAt s else 0) ∧
    t.faultAddr = (if t.cause = .memoryFault then firstOutOfRange (if t.opv then s.i else s.pc) else 0)

/-- R247: one step raises at most one fault, by the first check that fails: the fetch bound, decode, the executing
instruction's own check. Which fault a step raises says which check failed. -/
def Obligations.FaultCausesByInstruction : Prop :=
  ∀ s t : State, s.halted = false → step s = .next t → t.halted = true →
    (t.cause = .memoryFault ∧ 0xFFF ≤ s.pc.toNat) ∨
    (s.pc.toNat < 0xFFF ∧
      ((t.cause = .decodeError ∧ decode (opcodeAt s) = none) ∨
       (t.cause = .stackOverflow ∧ (∃ nnn, Executes s (.call nnn)) ∧ s.sp.val = 16) ∨
       (t.cause = .stackUnderflow ∧ Executes s .ret ∧ s.sp.val = 0) ∨
       (t.cause = .keyIndexFault ∧ ∃ x, (Executes s (.skp x) ∨ Executes s (.sknp x)) ∧ 0xF < (s.readV x).toNat) ∨
       (t.cause = .memoryFault ∧ ∃ x,
         (Executes s (.ldB x) ∧ 4096 < s.i.toNat + 3) ∨
         ((Executes s (.storeRegs x) ∨ Executes s (.loadRegs x)) ∧ 4096 < s.i.toNat + x.toNat + 1) ∨
         (∃ y n, Executes s (.drw x y n) ∧ 0 < n.toNat ∧ 4096 < s.i.toNat + n.toNat))))

/-- R31, R34: no step writes KEYS or CONFIG; only the host does. -/
def Obligations.StepsNeverWriteKeysOrConfig : Prop :=
  ∀ s t : State, step s = .next t → t.keys = s.keys ∧ t.shiftSource = s.shiftSource

/-- R22, R23: a step that changes V[r] executes an instruction whose row of R22 writes V[r]; VF is no exception. -/
def Obligations.OnlyNamedRegistersAreWritten : Prop :=
  ∀ (s t : State) (r : Nibble), step s = .next t → t.readV r ≠ s.readV r →
    ∃ i, Executes s i ∧ i.writesV r = true

/-- R26 ("No instruction other than 2nnn and 00EE reads or writes the stack or SP"): a step that changes STACK executes a
CALL, a step that changes SP a CALL or a RET, and a CALL changes only the entry at SP. -/
def Obligations.OnlyCallAndRetWriteTheStack : Prop :=
  ∀ s t : State, step s = .next t →
    (t.sp ≠ s.sp → (∃ nnn, Executes s (.call nnn)) ∨ Executes s .ret) ∧
    (∀ j : Fin 16, t.stack[j] ≠ s.stack[j] → (∃ nnn, Executes s (.call nnn)) ∧ j.val = s.sp.val)

/-- R25: a step that changes I executes Annn, Fx1E or Fx29. -/
def Obligations.OnlyThreeInstructionsWriteI : Prop :=
  ∀ s t : State, step s = .next t → t.i ≠ s.i →
    (∃ nnn, Executes s (.ldI nnn)) ∨ (∃ x, Executes s (.addI x)) ∨ (∃ x, Executes s (.ldF x))

/-- R65: a step that changes a byte of memory executes Fx33, and the byte is at I, I+1 or I+2, or Fx55, and the byte is in
I..I+x. -/
def Obligations.OnlyTwoInstructionsWriteMemory : Prop :=
  ∀ (s t : State) (a : Nat), step s = .next t → t.readByte a ≠ s.readByte a →
    (∃ x, Executes s (.ldB x) ∧ s.i.toNat ≤ a ∧ a ≤ s.i.toNat + 2) ∨
    (∃ x, Executes s (.storeRegs x) ∧ s.i.toNat ≤ a ∧ a ≤ s.i.toNat + x.toNat)

/-- R29: a step that changes a pixel executes 00E0 or Dxyn, and DRAW is 1 after it. -/
def Obligations.OnlyTwoInstructionsWritePixels : Prop :=
  ∀ (s t : State) (x y : Nat), step s = .next t → pixel t.fb x y ≠ pixel s.fb x y →
    (Executes s .cls ∨ ∃ p q n, Executes s (.drw p q n)) ∧ t.draw = true

/-- R39, isolation: ST, DRAW and BEEP cannot be read by any instruction. Two states that differ in these three only step to
two states that differ in these three at most. The two states have one `draws`, so the two steps share the draw of a Cxkk: that
they get the same byte is the model's choice, log entry 1. -/
def Obligations.SoundTimerAndFlagsDoNotLeak : Prop :=
  ∀ (s : State) (st : Byte) (draw beep : Bool),
    ∃ t u, step s = .next t ∧ step { s with st := st, draw := draw, beep := beep } = .next u ∧
      UnchangedBut [.st, .draw, .beep] t u

/-! ## Invariants -/

/-- R24 ("No reachable sequence of rules takes PC above 0x10FE"): every step keeps the bound on PC and on the return
addresses, from every state that has it. -/
def Obligations.StepKeepsPcBounded : Prop :=
  ∀ s t : State, PcBounded s → step s = .next t → PcBounded t

/-- The model's canonical form of memory (log entry 2) is kept by every step. -/
def Obligations.StepKeepsMemoryCanonical : Prop :=
  ∀ s t : State, MemoryCanonical s → step s = .next t → MemoryCanonical t

/-- R34, R40, R245: every step keeps the halt record consistent: empty while running; once halted, a cause of R240 with the
fields that cause has, naming PC. -/
def Obligations.StepKeepsHaltRecordConsistent : Prop :=
  ∀ s t : State, HaltRecordConsistent s → step s = .next t → HaltRecordConsistent t

/-- The reset state, which takes the default FONT and CONFIG at VX by the model's reading (log entry 4), meets the three
invariants. The canonical form of memory is the model's choice (log entry 2); R50 gives the other values. -/
def Obligations.ResetMeetsTheInvariants : Prop :=
  PcBounded State.reset ∧ MemoryCanonical State.reset ∧ HaltRecordConsistent State.reset

/-- R45, R49: every state the host can bring the core to, by any sequence of its operations and with any FONT, meets the
three invariants. The canonical form of memory is the model's choice (log entry 2); that the operations come between steps and
that CONFIG starts at VX are its readings (log entries 6 and 4). -/
def Obligations.ReachableStatesMeetTheInvariants : Prop :=
  ∀ (font : Font) (s : State), Reachable font s → PcBounded s ∧ MemoryCanonical s ∧ HaltRecordConsistent s

/-! ## Memory (20_memory.md) -/

/-- R71 ("A read of M[a] returns the value of the latest write to M[a] before it"): after a write within memory, that address
reads the byte written and every other address reads as before; the canonical form, the model's choice (log entry 2), is kept. -/
def Obligations.ReadAfterWrite : Prop :=
  ∀ (m : Memory) (a : Nat) (b : Byte), Memory.wf m = true → a < 4096 →
    Memory.wf (Memory.write m a b) = true ∧
    ∀ c, Memory.read (Memory.write m a b) c = if c = a then b else Memory.read m c

/-- R74 ("a write made by the instruction of cycle n is seen by the fetch of every later cycle, with no fence"): an Fx55 that
stores V[0] and V[1] over the next instruction's two bytes makes them the word the next step fetches. The premise on memory
is the model's invariant, log entry 2. -/
def Obligations.StoredCodeIsFetchedNext : Prop :=
  ∀ (s : State) (x : Nibble), MemoryCanonical s → Executes s (.storeRegs x) → 1 ≤ x.toNat →
    s.i.toNat = s.pc.toNat + 2 → s.i.toNat + x.toNat ≤ 0xFFF →
    ∃ t, step s = .next t ∧ t.pc.toNat = s.i.toNat ∧ opcodeAt t = s.readV 0 ++ s.readV 1

/-! ## Control transfer (41_control.md) -/

/-- R131. -/
def Obligations.JpSetsPc : Prop :=
  ∀ (nnn : Addr12) (s : State),
    decode (0x1#4 ++ nnn) = some (.jp nnn) ∧
    ∃ t, exec (.jp nnn) s = .next t ∧ t.pc.toNat = nnn.toNat ∧ UnchangedBut [.pc] s t

/-- R132: push the address of this CALL at STACK[SP], SP + 1, PC = nnn, no advance; with SP = 16, StackOverflow and no state
changed. -/
def Obligations.CallPushesItsOwnAddress : Prop :=
  ∀ (nnn : Addr12) (s : State),
    decode (0x2#4 ++ nnn) = some (.call nnn) ∧
    ∃ t, exec (.call nnn) s = .next t ∧
      if s.sp.val = 16 then FaultEntry .stackOverflow (some (0x2#4 ++ nnn)) 0 s t
      else (∀ j : Fin 16, t.stack[j] = if j.val = s.sp.val then s.pc else s.stack[j]) ∧
        t.sp.val = s.sp.val + 1 ∧ t.pc.toNat = nnn.toNat ∧ UnchangedBut [.stack, .sp, .pc] s t

/-- R133: SP - 1, and PC is the entry at the new SP, advanced by 2; the entry keeps its value; with SP = 0, StackUnderflow
and no state changed. -/
def Obligations.RetReturnsPastTheCall : Prop :=
  ∀ s : State,
    decode 0x00EE = some .ret ∧
    ∃ t, exec .ret s = .next t ∧
      if s.sp.val = 0 then FaultEntry .stackUnderflow (some 0x00EE) 0 s t
      else t.sp.val = s.sp.val - 1 ∧ (∀ j : Fin 16, j.val = t.sp.val → t.pc = s.stack[j] + 2) ∧
        UnchangedBut [.sp, .pc] s t

/-- R134: the sum of V[0] and nnn, never truncated. -/
def Obligations.JpV0SetsPc : Prop :=
  ∀ (nnn : Addr12) (s : State),
    decode (0xB#4 ++ nnn) = some (.jpV0 nnn) ∧
    ∃ t, exec (.jpV0 nnn) s = .next t ∧ t.pc.toNat = (s.readV 0).toNat + nnn.toNat ∧ UnchangedBut [.pc] s t

/-! ## Skips (42_skip.md) -/

/-- R140, R141, R142, R143, R144: PC + 4 when the condition holds, PC + 2 when it does not, modulo 2^16; nothing else changes. -/
def Obligations.RegisterSkips : Prop :=
  ∀ (x y : Nibble) (kk : Byte) (s : State),
    (decode (0x3#4 ++ x ++ kk) = some (.seImm x kk) ∧ decode (0x4#4 ++ x ++ kk) = some (.sneImm x kk) ∧
      decode (0x5#4 ++ x ++ y ++ 0x0#4) = some (.seReg x y) ∧
      decode (0x9#4 ++ x ++ y ++ 0x0#4) = some (.sneReg x y)) ∧
    (∃ t, exec (.seImm x kk) s = .next t ∧ t.pc = s.pc + (if s.readV x = kk then 4 else 2) ∧
      UnchangedBut [.pc] s t) ∧
    (∃ t, exec (.sneImm x kk) s = .next t ∧ t.pc = s.pc + (if s.readV x = kk then 2 else 4) ∧
      UnchangedBut [.pc] s t) ∧
    (∃ t, exec (.seReg x y) s = .next t ∧ t.pc = s.pc + (if s.readV x = s.readV y then 4 else 2) ∧
      UnchangedBut [.pc] s t) ∧
    (∃ t, exec (.sneReg x y) s = .next t ∧ t.pc = s.pc + (if s.readV x = s.readV y then 2 else 4) ∧
      UnchangedBut [.pc] s t)

/-! ## Register loads and arithmetic (43_alu.md) -/

/-- R153. -/
def Obligations.LdImmWritesVx : Prop :=
  ∀ (x : Nibble) (kk : Byte) (s : State),
    decode (0x6#4 ++ x ++ kk) = some (.ldImm x kk) ∧
    ∃ t, exec (.ldImm x kk) s = .next t ∧ t.readV x = kk ∧ OtherRegsSame x s t ∧ t.pc = s.pc + 2 ∧
      UnchangedBut [.regs, .pc] s t

/-- R154: wraps modulo 256, no flag: VF is unchanged when x is not F. -/
def Obligations.AddImmWrapsWithoutFlag : Prop :=
  ∀ (x : Nibble) (kk : Byte) (s : State),
    decode (0x7#4 ++ x ++ kk) = some (.addImm x kk) ∧
    ∃ t, exec (.addImm x kk) s = .next t ∧ (t.readV x).toNat = ((s.readV x).toNat + kk.toNat) % 256 ∧
      OtherRegsSame x s t ∧ t.pc = s.pc + 2 ∧ UnchangedBut [.regs, .pc] s t

/-- R155, R156, R157, R158: V[x] is V[y], or the bitwise or, and, exclusive or of the two; VF is unchanged when x is not F. -/
def Obligations.MoveAndLogicWriteVxOnly : Prop :=
  ∀ (x y : Nibble) (s : State),
    (decode (0x8#4 ++ x ++ y ++ 0x0#4) = some (.ldReg x y) ∧ decode (0x8#4 ++ x ++ y ++ 0x1#4) = some (.orReg x y) ∧
      decode (0x8#4 ++ x ++ y ++ 0x2#4) = some (.andReg x y) ∧
      decode (0x8#4 ++ x ++ y ++ 0x3#4) = some (.xorReg x y)) ∧
    (∃ t, exec (.ldReg x y) s = .next t ∧ t.readV x = s.readV y ∧ OtherRegsSame x s t ∧ t.pc = s.pc + 2 ∧
      UnchangedBut [.regs, .pc] s t) ∧
    (∃ t, exec (.orReg x y) s = .next t ∧
      (∀ k < 8, (t.readV x).getLsbD k = ((s.readV x).getLsbD k || (s.readV y).getLsbD k)) ∧ OtherRegsSame x s t ∧
      t.pc = s.pc + 2 ∧ UnchangedBut [.regs, .pc] s t) ∧
    (∃ t, exec (.andReg x y) s = .next t ∧
      (∀ k < 8, (t.readV x).getLsbD k = ((s.readV x).getLsbD k && (s.readV y).getLsbD k)) ∧ OtherRegsSame x s t ∧
      t.pc = s.pc + 2 ∧ UnchangedBut [.regs, .pc] s t) ∧
    (∃ t, exec (.xorReg x y) s = .next t ∧
      (∀ k < 8, (t.readV x).getLsbD k = ((s.readV x).getLsbD k ^^ (s.readV y).getLsbD k)) ∧ OtherRegsSame x s t ∧
      t.pc = s.pc + 2 ∧ UnchangedBut [.regs, .pc] s t)

/-- R150, R159: V[x] is the sum modulo 256 and VF the carry, written last: for x = F, VF is the carry. -/
def Obligations.AddRegSetsCarry : Prop :=
  ∀ (x y : Nibble) (s : State),
    decode (0x8#4 ++ x ++ y ++ 0x4#4) = some (.addReg x y) ∧
    ∃ t, exec (.addReg x y) s = .next t ∧
      (x ≠ 0xF → (t.readV x).toNat = ((s.readV x).toNat + (s.readV y).toNat) % 256) ∧
      t.readV 0xF = (if 255 < (s.readV x).toNat + (s.readV y).toNat then 1 else 0) ∧
      OtherRegsSameButVF x s t ∧ t.pc = s.pc + 2 ∧ UnchangedBut [.regs, .pc] s t

/-- R150, R160, R162: V[x] is the difference modulo 256; VF is 1 exactly when the minuend is strictly greater, written
last. -/
def Obligations.SubtractionsSetStrictComparison : Prop :=
  ∀ (x y : Nibble) (s : State),
    (decode (0x8#4 ++ x ++ y ++ 0x5#4) = some (.sub x y) ∧ decode (0x8#4 ++ x ++ y ++ 0x7#4) = some (.subn x y)) ∧
    (∃ t, exec (.sub x y) s = .next t ∧
      (x ≠ 0xF → ((t.readV x).toNat : Int) = ((s.readV x).toNat - (s.readV y).toNat : Int) % 256) ∧
      t.readV 0xF = (if (s.readV y).toNat < (s.readV x).toNat then 1 else 0) ∧
      OtherRegsSameButVF x s t ∧ t.pc = s.pc + 2 ∧ UnchangedBut [.regs, .pc] s t) ∧
    (∃ t, exec (.subn x y) s = .next t ∧
      (x ≠ 0xF → ((t.readV x).toNat : Int) = ((s.readV y).toNat - (s.readV x).toNat : Int) % 256) ∧
      t.readV 0xF = (if (s.readV x).toNat < (s.readV y).toNat then 1 else 0) ∧
      OtherRegsSameButVF x s t ∧ t.pc = s.pc + 2 ∧ UnchangedBut [.regs, .pc] s t)

/-- R150, R152, R161, R163: the operand is V[x], or V[y] when SHIFT_SOURCE = VY; V[x] is its half or its double modulo 256
and VF the bit shifted out, written last. -/
def Obligations.ShiftsBySource : Prop :=
  ∀ (x y : Nibble) (s : State),
    (decode (0x8#4 ++ x ++ y ++ 0x6#4) = some (.shr x y) ∧ decode (0x8#4 ++ x ++ y ++ 0xE#4) = some (.shl x y)) ∧
    ∀ v : Byte, v = (if s.shiftSource = .vx then s.readV x else s.readV y) →
      (∃ t, exec (.shr x y) s = .next t ∧ (x ≠ 0xF → (t.readV x).toNat = v.toNat / 2) ∧
        (t.readV 0xF).toNat = v.toNat % 2 ∧
        OtherRegsSameButVF x s t ∧ t.pc = s.pc + 2 ∧ UnchangedBut [.regs, .pc] s t) ∧
      (∃ t, exec (.shl x y) s = .next t ∧ (x ≠ 0xF → (t.readV x).toNat = 2 * v.toNat % 256) ∧
        (t.readV 0xF).toNat = v.toNat / 128 ∧
        OtherRegsSameButVF x s t ∧ t.pc = s.pc + 2 ∧ UnchangedBut [.regs, .pc] s t)

/-- R164: V[x] is the draw and kk, for every value the draw can have: `Config.randomByte` has no body. kk = 0 gives 0. The
next Cxkk takes the next draw (`draws` is the model's own field, log entry 1). -/
def Obligations.RndMasksAFreeByte : Prop :=
  ∀ (x : Nibble) (kk : Byte) (s : State),
    decode (0xC#4 ++ x ++ kk) = some (.rnd x kk) ∧
    ∃ t, exec (.rnd x kk) s = .next t ∧
      (∀ k < 8, (t.readV x).getLsbD k = ((Config.randomByte s.draws).getLsbD k && kk.getLsbD k)) ∧
      (kk = 0 → t.readV x = 0) ∧ (kk = 0xFF → t.readV x = Config.randomByte s.draws) ∧
      OtherRegsSame x s t ∧ t.pc = s.pc + 2 ∧ t.draws = s.draws + 1 ∧ UnchangedBut [.regs, .pc, .draws] s t

/-! ## Index register and memory (44_index_memory.md) -/

/-- R181. -/
def Obligations.LdIWritesI : Prop :=
  ∀ (nnn : Addr12) (s : State),
    decode (0xA#4 ++ nnn) = some (.ldI nnn) ∧
    ∃ t, exec (.ldI nnn) s = .next t ∧ t.i.toNat = nnn.toNat ∧ t.pc = s.pc + 2 ∧ UnchangedBut [.i, .pc] s t

/-- R182: modulo 2^16, VF unchanged, no fault whatever I becomes. -/
def Obligations.AddIWrapsWithoutFlag : Prop :=
  ∀ (x : Nibble) (s : State),
    decode (0xF#4 ++ x ++ 0x1E#8) = some (.addI x) ∧
    ∃ t, exec (.addI x) s = .next t ∧ t.i.toNat = (s.i.toNat + (s.readV x).toNat) % 65536 ∧ t.pc = s.pc + 2 ∧
      UnchangedBut [.i, .pc] s t

/-- R183: five times V[x], not masked. -/
def Obligations.LdFPointsAtTheGlyph : Prop :=
  ∀ (x : Nibble) (s : State),
    decode (0xF#4 ++ x ++ 0x29#8) = some (.ldF x) ∧
    ∃ t, exec (.ldF x) s = .next t ∧ t.i.toNat = (s.readV x).toNat * 5 ∧ t.pc = s.pc + 2 ∧ UnchangedBut [.i, .pc] s t

/-- R184: the three digits at I, I+1 and I+2, every other byte as before, I unchanged; MemoryFault and nothing changed when
I + 3 > 4096. The premise is the model's invariant of memory, log entry 2. -/
def Obligations.LdBStoresThreeDigits : Prop :=
  ∀ (x : Nibble) (s : State), MemoryCanonical s →
    decode (0xF#4 ++ x ++ 0x33#8) = some (.ldB x) ∧
    ∃ t, exec (.ldB x) s = .next t ∧
      if s.i.toNat + 3 ≤ 4096 then
        (t.readByte s.i.toNat).toNat = (s.readV x).toNat / 100 ∧
        (t.readByte (s.i.toNat + 1)).toNat = (s.readV x).toNat / 10 % 10 ∧
        (t.readByte (s.i.toNat + 2)).toNat = (s.readV x).toNat % 10 ∧
        (∀ a, a < s.i.toNat ∨ s.i.toNat + 2 < a → t.readByte a = s.readByte a) ∧
        t.pc = s.pc + 2 ∧ UnchangedBut [.mem, .pc] s t
      else FaultEntry .memoryFault (some (0xF#4 ++ x ++ 0x33#8)) (firstOutOfRange s.i) s t

/-- R185: V[j] at I + j for j = 0 to x inclusive, every other byte as before, I unchanged; MemoryFault and nothing changed
when I + x > 0xFFF. The premise is the model's invariant of memory, log entry 2. -/
def Obligations.StoreRegsWritesInclusiveRange : Prop :=
  ∀ (x : Nibble) (s : State), MemoryCanonical s →
    decode (0xF#4 ++ x ++ 0x55#8) = some (.storeRegs x) ∧
    ∃ t, exec (.storeRegs x) s = .next t ∧
      if s.i.toNat + x.toNat ≤ 0xFFF then
        (∀ r : Nibble, r.toNat ≤ x.toNat → t.readByte (s.i.toNat + r.toNat) = s.readV r) ∧
        (∀ a, a < s.i.toNat ∨ s.i.toNat + x.toNat < a → t.readByte a = s.readByte a) ∧
        t.pc = s.pc + 2 ∧ UnchangedBut [.mem, .pc] s t
      else FaultEntry .memoryFault (some (0xF#4 ++ x ++ 0x55#8)) (firstOutOfRange s.i) s t

/-- R186: V[j] from M[I + j] for j = 0 to x inclusive, the registers above x as before, I unchanged; MemoryFault and nothing
changed when I + x > 0xFFF. -/
def Obligations.LoadRegsReadsInclusiveRange : Prop :=
  ∀ (x : Nibble) (s : State),
    decode (0xF#4 ++ x ++ 0x65#8) = some (.loadRegs x) ∧
    ∃ t, exec (.loadRegs x) s = .next t ∧
      if s.i.toNat + x.toNat ≤ 0xFFF then
        (∀ r : Nibble, t.readV r = if r.toNat ≤ x.toNat then s.readByte (s.i.toNat + r.toNat) else s.readV r) ∧
        t.pc = s.pc + 2 ∧ UnchangedBut [.regs, .pc] s t
      else FaultEntry .memoryFault (some (0xF#4 ++ x ++ 0x65#8)) (firstOutOfRange s.i) s t

/-! ## Display (45_display.md) -/

/-- R202: every pixel off and DRAW = 1, whatever the framebuffer was; VF unchanged. -/
def Obligations.ClsClearsEveryPixel : Prop :=
  ∀ s : State,
    decode 0x00E0 = some .cls ∧
    ∃ t, exec .cls s = .next t ∧ (∀ x y, pixel t.fb x y = false) ∧ (∀ k : Byte, t.readFbp k = 0) ∧ t.draw = true ∧
      t.pc = s.pc + 2 ∧ UnchangedBut [.fb, .draw, .pc] s t

/-- R200, R201, R203: every pixel is XORed with the sprite's bit there, clipped to the grid; VF is 1 exactly when some
sprite bit falls on a pixel that was on; DRAW = 1; the coordinates are read before VF is written; MemoryFault and nothing
drawn when n > 0 and I + n > 4096; n = 0 draws nothing wherever I is. -/
def Obligations.DrwXorsTheClippedSprite : Prop :=
  ∀ (x y n : Nibble) (s : State),
    decode (0xD#4 ++ x ++ y ++ n) = some (.drw x y n) ∧
    ∃ t, exec (.drw x y n) s = .next t ∧
      if n.toNat = 0 ∨ s.i.toNat + n.toNat ≤ 4096 then
        (∀ px py, pixel t.fb px py = (pixel s.fb px py ^^ spriteBit s x y n px py)) ∧
        (t.readV 0xF = 0 ∨ t.readV 0xF = 1) ∧
        (t.readV 0xF = 1 ↔ ∃ px py, spriteBit s x y n px py = true ∧ pixel s.fb px py = true) ∧
        OtherRegsSame 0xF s t ∧ t.draw = true ∧ t.pc = s.pc + 2 ∧ UnchangedBut [.regs, .fb, .draw, .pc] s t
      else FaultEntry .memoryFault (some (0xD#4 ++ x ++ y ++ n)) (firstOutOfRange s.i) s t

/-- R203, drawing the same sprite at the same place twice, with coordinates that are not in VF: the framebuffer is as before.
The second draw gives VF = 1 exactly when some sprite bit in the grid falls on a pixel that was off before the first: so on a
clear place, exactly when the sprite has a 1-bit inside the grid (log entry 5). -/
def Obligations.DrawingTwiceRestoresTheFramebuffer : Prop :=
  ∀ (x y n : Nibble) (s : State), x ≠ 0xF → y ≠ 0xF → n.toNat = 0 ∨ s.i.toNat + n.toNat ≤ 4096 →
    ∃ t u, exec (.drw x y n) s = .next t ∧ exec (.drw x y n) t = .next u ∧
      (∀ px py, pixel u.fb px py = pixel s.fb px py) ∧
      (u.readV 0xF = 1 ↔ ∃ px py, spriteBit s x y n px py = true ∧ pixel s.fb px py = false) ∧
      ((∀ px py, pixel s.fb px py = false) → (u.readV 0xF = 1 ↔ ∃ px py, spriteBit s x y n px py = true))

/-! ## Keypad and timers (46_keypad_timer.md) -/

/-- R140, R220, R221, R222: skip by the level of key V[x]; KeyIndexFault and nothing changed when V[x] > 0xF. -/
def Obligations.KeySkips : Prop :=
  ∀ (x : Nibble) (s : State),
    (decode (0xE#4 ++ x ++ 0x9E#8) = some (.skp x) ∧ decode (0xE#4 ++ x ++ 0xA1#8) = some (.sknp x)) ∧
    (∃ t, exec (.skp x) s = .next t ∧
      if (s.readV x).toNat ≤ 0xF then
        t.pc = s.pc + (if s.keys.getLsbD (s.readV x).toNat then 4 else 2) ∧ UnchangedBut [.pc] s t
      else FaultEntry .keyIndexFault (some (0xE#4 ++ x ++ 0x9E#8)) 0 s t) ∧
    (∃ t, exec (.sknp x) s = .next t ∧
      if (s.readV x).toNat ≤ 0xF then
        t.pc = s.pc + (if s.keys.getLsbD (s.readV x).toNat then 2 else 4) ∧ UnchangedBut [.pc] s t
      else FaultEntry .keyIndexFault (some (0xE#4 ++ x ++ 0xA1#8)) 0 s t)

/-- R223: with a key pressed, V[x] is the lowest pressed key and PC advances; with none, nothing changes, PC included. -/
def Obligations.LdVxKTakesTheLowestKey : Prop :=
  ∀ (x : Nibble) (s : State),
    decode (0xF#4 ++ x ++ 0x0A#8) = some (.ldVxK x) ∧
    (∀ k < 16, s.keys.getLsbD k = true → (∀ j < k, s.keys.getLsbD j = false) →
      ∃ t, exec (.ldVxK x) s = .next t ∧ (t.readV x).toNat = k ∧ OtherRegsSame x s t ∧ t.pc = s.pc + 2 ∧
        UnchangedBut [.regs, .pc] s t) ∧
    ((∀ k < 16, s.keys.getLsbD k = false) → exec (.ldVxK x) s = .next s)

/-- R224, R225, R226: reads and writes of the timers; BEEP is not set by a write of ST. -/
def Obligations.TimerTransfers : Prop :=
  ∀ (x : Nibble) (s : State),
    (decode (0xF#4 ++ x ++ 0x07#8) = some (.ldVxDt x) ∧ decode (0xF#4 ++ x ++ 0x15#8) = some (.ldDtVx x) ∧
      decode (0xF#4 ++ x ++ 0x18#8) = some (.ldStVx x)) ∧
    (∃ t, exec (.ldVxDt x) s = .next t ∧ t.readV x = s.dt ∧ OtherRegsSame x s t ∧ t.pc = s.pc + 2 ∧
      UnchangedBut [.regs, .pc] s t) ∧
    (∃ t, exec (.ldDtVx x) s = .next t ∧ t.dt = s.readV x ∧ t.pc = s.pc + 2 ∧ UnchangedBut [.dt, .pc] s t) ∧
    (∃ t, exec (.ldStVx x) s = .next t ∧ t.st = s.readV x ∧ t.pc = s.pc + 2 ∧ UnchangedBut [.st, .pc] s t)

/-- R224 with R103: an Fx07 run by a step reads DT after that step's tick. -/
def Obligations.Fx07ReadsTheTickedTimer : Prop :=
  ∀ (s : State) (x : Nibble), Executes s (.ldVxDt x) →
    ∃ t, step s = .next t ∧ t.readV x = ticked s.dt ∧ t.dt = ticked s.dt ∧ OtherRegsSame x s t ∧ t.pc = s.pc + 2

/-! ## Reset, load and the host's port (70_reset_and_hazards.md, 10_state.md) -/

/-- R50: the reset value of every state element, with the default FONT at 0x000..0x04F and zero elsewhere; CONFIG is its
power-on value of R34. That State.reset takes the default FONT and VX is the model's reading, log entry 4. -/
def Obligations.ResetLeavesTheListedValues : Prop :=
  (∀ r, State.reset.readV r = 0) ∧ State.reset.i = 0 ∧ State.reset.pc = 0x0200 ∧
  (∀ j : Fin 16, State.reset.stack[j] = 0) ∧ State.reset.sp.val = 0 ∧ State.reset.dt = 0 ∧ State.reset.st = 0 ∧
  (∀ a : Fin 80, State.reset.readByte a.val = defaultFont[a]) ∧ (∀ a, 0x050 ≤ a → State.reset.readByte a = 0) ∧
  (∀ x y, pixel State.reset.fb x y = false) ∧ State.reset.keys = 0 ∧ State.reset.draw = false ∧
  State.reset.beep = false ∧ State.reset.halted = false ∧ State.reset.cause = .none ∧ State.reset.opv = false ∧
  State.reset.faultPc = 0 ∧ State.reset.faultOpcode = 0 ∧ State.reset.faultAddr = 0 ∧ State.reset.shiftSource = .vx

/-- R270, R272: the host's reset, from any state and with any FONT, gives every element its reset value, FONT at
0x000..0x04F and zero in the rest of memory, and leaves CONFIG alone. The last clause is the model's choice, log entry 1: the
model's own draw counter is kept. -/
def Obligations.HostResetFromAnyState : Prop :=
  ∀ (font : Font) (s : State),
    (∀ a : Fin 80, (s.hostReset font).readByte a.val = font[a]) ∧
    (∀ a, 0x050 ≤ a → (s.hostReset font).readByte a = 0) ∧
    (s.hostReset font).shiftSource = s.shiftSource ∧
    UnchangedBut [.mem, .config, .draws] State.reset (s.hostReset font) ∧
    (s.hostReset font).draws = s.draws

/-- R273, R274: a ROM of at most 3584 bytes is loaded after a reset, verbatim from 0x200, and the rest of memory is the reset
image; a longer one answers LOAD_ERROR and changes no state. -/
def Obligations.LoadRomCopiesOrRejects : Prop :=
  ∀ (font : Font) (s : State) (bytes : List Byte),
    if bytes.length ≤ 3584 then
      (s.loadRom font bytes).1 = .ok ∧
      (∀ (j : Nat) (h : j < bytes.length), (s.loadRom font bytes).2.readByte (0x200 + j) = bytes[j]) ∧
      (∀ a, a < 0x200 ∨ 0x200 + bytes.length ≤ a →
        (s.loadRom font bytes).2.readByte a = (s.hostReset font).readByte a) ∧
      UnchangedBut [.mem] (s.hostReset font) (s.loadRom font bytes).2
    else s.loadRom font bytes = (.loadError, s)

/-- R47: a key event sets the level of its key and changes no other state, halted or not. -/
def Obligations.KeyEventSetsOneKey : Prop :=
  ∀ (s : State) (k : Nibble) (p : KeyAction),
    (∀ j < 16, (s.keyEvent k p).key j = if j = k.toNat then decide (p = .pressed) else s.key j) ∧
    UnchangedBut [.keys] s (s.keyEvent k p)

/-- R34: the bits of FLAGS, STATUS and CONFIG as the host reads them, the reserved bits 0, and CAUSE as the code of R240,
never 6 or 7. -/
def Obligations.StatusRegisterLayout : Prop :=
  ∀ s : State,
    s.flagsReg.getLsbD 0 = s.draw ∧ s.flagsReg.getLsbD 1 = s.beep ∧ (∀ k, 2 ≤ k → s.flagsReg.getLsbD k = false) ∧
    s.statusReg.getLsbD 0 = s.halted ∧
    s.statusReg.toNat / 2 % 8 = (match s.cause with
      | .none => 0 | .decodeError => 1 | .stackOverflow => 2 | .stackUnderflow => 3 | .memoryFault => 4
      | .keyIndexFault => 5) ∧
    s.statusReg.getLsbD 4 = s.opv ∧ (∀ k, 5 ≤ k → s.statusReg.getLsbD k = false) ∧
    s.configReg.getLsbD 0 = decide (s.shiftSource = .vy) ∧ (∀ k, 1 ≤ k → s.configReg.getLsbD k = false)

/-- R46: the port `load_status` is 0 when `load_rom` accepts the ROM and 1 when it answers LOAD_ERROR. -/
def Obligations.LoadStatusPortCode : Prop :=
  ∀ (font : Font) (s : State) (bytes : List Byte),
    (s.loadRom font bytes).1.code = if bytes.length ≤ 3584 then 0#1 else 1#1

end
end

