-- ==== Sys2Proof/Laws/Decode.lean ====
section
/-! SUPPORT. The fields of the formats (30_encoding.md R80, R82), the way back from fields to word, and well-formedness by
type. Words are compared by their values: a format is a sum of its fields, a field a quotient and remainder. -/

namespace Sys2Proof

/-- A concatenation as a number: "a in the high bits" (00_scope.md R10). -/
theorem toNat_append_eq {m n : Nat} (a : BitVec m) (b : BitVec n) : (a ++ b).toNat = a.toNat * 2 ^ n + b.toNat := by
  rw [BitVec.toNat_append, ← Nat.shiftLeft_add_eq_or_of_lt b.isLt, Nat.shiftLeft_eq]

theorem toNat_formatA (h : Nibble) (nnn : Addr12) : (formatA h nnn).toNat = h.toNat * 4096 + nnn.toNat :=
  toNat_append_eq h nnn

theorem toNat_formatXK (h x : Nibble) (kk : Byte) :
    (formatXK h x kk).toNat = (h.toNat * 16 + x.toNat) * 256 + kk.toNat := by
  rw [← show (h ++ x).toNat = h.toNat * 16 + x.toNat from toNat_append_eq h x]
  exact toNat_append_eq (h ++ x) kk

theorem toNat_formatXYN (h x y n : Nibble) :
    (formatXYN h x y n).toNat = ((h.toNat * 16 + x.toNat) * 16 + y.toNat) * 16 + n.toNat := by
  rw [← show (h ++ x).toNat = h.toNat * 16 + x.toNat from toNat_append_eq h x,
    ← show (h ++ x ++ y).toNat = (h ++ x).toNat * 16 + y.toNat from toNat_append_eq (h ++ x) y]
  exact toNat_append_eq (h ++ x ++ y) n

theorem toNat_wordOfBytes (hi lo : Byte) : (wordOfBytes hi lo).toNat = hi.toNat * 256 + lo.toNat := toNat_append_eq hi lo

theorem toNat_fieldH (op : Word) : (fieldH op).toNat = op.toNat / 4096 % 16 := by
  simp [fieldH, Nat.shiftRight_eq_div_pow]

theorem toNat_fieldX (op : Word) : (fieldX op).toNat = op.toNat / 256 % 16 := by
  simp [fieldX, Nat.shiftRight_eq_div_pow]

theorem toNat_fieldY (op : Word) : (fieldY op).toNat = op.toNat / 16 % 16 := by
  simp [fieldY, Nat.shiftRight_eq_div_pow]

theorem toNat_fieldN (op : Word) : (fieldN op).toNat = op.toNat % 16 := by simp [fieldN]

theorem toNat_fieldKK (op : Word) : (fieldKK op).toNat = op.toNat % 256 := by simp [fieldKK]

theorem toNat_fieldNNN (op : Word) : (fieldNNN op).toNat = op.toNat % 4096 := by simp [fieldNNN]

theorem toNat_highByte (op : Word) : (highByte op).toNat = op.toNat / 256 % 256 := by
  simp [highByte, Nat.shiftRight_eq_div_pow]

theorem toNat_lowByte (op : Word) : (lowByte op).toNat = op.toNat % 256 := by simp [lowByte]

/-! ### The fields of a format -/

theorem fieldH_formatA (h : Nibble) (nnn : Addr12) : fieldH (formatA h nnn) = h := by
  apply BitVec.eq_of_toNat_eq; rw [toNat_fieldH, toNat_formatA]; omega

theorem fieldNNN_formatA (h : Nibble) (nnn : Addr12) : fieldNNN (formatA h nnn) = nnn := by
  apply BitVec.eq_of_toNat_eq; rw [toNat_fieldNNN, toNat_formatA]; omega

theorem fieldH_formatXK (h x : Nibble) (kk : Byte) : fieldH (formatXK h x kk) = h := by
  apply BitVec.eq_of_toNat_eq; rw [toNat_fieldH, toNat_formatXK]; omega

theorem fieldX_formatXK (h x : Nibble) (kk : Byte) : fieldX (formatXK h x kk) = x := by
  apply BitVec.eq_of_toNat_eq; rw [toNat_fieldX, toNat_formatXK]; omega

theorem fieldKK_formatXK (h x : Nibble) (kk : Byte) : fieldKK (formatXK h x kk) = kk := by
  apply BitVec.eq_of_toNat_eq; rw [toNat_fieldKK, toNat_formatXK]; omega

theorem fieldH_formatXYN (h x y n : Nibble) : fieldH (formatXYN h x y n) = h := by
  apply BitVec.eq_of_toNat_eq; rw [toNat_fieldH, toNat_formatXYN]; omega

theorem fieldX_formatXYN (h x y n : Nibble) : fieldX (formatXYN h x y n) = x := by
  apply BitVec.eq_of_toNat_eq; rw [toNat_fieldX, toNat_formatXYN]; omega

theorem fieldY_formatXYN (h x y n : Nibble) : fieldY (formatXYN h x y n) = y := by
  apply BitVec.eq_of_toNat_eq; rw [toNat_fieldY, toNat_formatXYN]; omega

theorem fieldN_formatXYN (h x y n : Nibble) : fieldN (formatXYN h x y n) = n := by
  apply BitVec.eq_of_toNat_eq; rw [toNat_fieldN, toNat_formatXYN]; omega

/-- The low byte of format XYN is its two low nibbles. -/
theorem fieldKK_formatXYN (h x y n : Nibble) : fieldKK (formatXYN h x y n) = y ++ n := by
  apply BitVec.eq_of_toNat_eq
  rw [toNat_fieldKK, toNat_formatXYN, show (y ++ n).toNat = y.toNat * 16 + n.toNat from toNat_append_eq y n]
  omega

theorem fieldNNN_formatXYN (h x y n : Nibble) : fieldNNN (formatXYN h x y n) = x ++ y ++ n := by
  apply BitVec.eq_of_toNat_eq
  rw [toNat_fieldNNN, toNat_formatXYN,
    show (x ++ y ++ n).toNat = (x ++ y).toNat * 16 + n.toNat from toNat_append_eq (x ++ y) n,
    show (x ++ y).toNat = x.toNat * 16 + y.toNat from toNat_append_eq x y]
  omega

/-! ### A word is made of its fields -/

theorem formatA_fields (op : Word) : formatA (fieldH op) (fieldNNN op) = op := by
  apply BitVec.eq_of_toNat_eq; rw [toNat_formatA, toNat_fieldH, toNat_fieldNNN]; omega

theorem formatXK_fields (op : Word) : formatXK (fieldH op) (fieldX op) (fieldKK op) = op := by
  apply BitVec.eq_of_toNat_eq; rw [toNat_formatXK, toNat_fieldH, toNat_fieldX, toNat_fieldKK]; omega

theorem formatXYN_fields (op : Word) : formatXYN (fieldH op) (fieldX op) (fieldY op) (fieldN op) = op := by
  apply BitVec.eq_of_toNat_eq
  rw [toNat_formatXYN, toNat_fieldH, toNat_fieldX, toNat_fieldY, toNat_fieldN]; omega

/-- Two bytes in memory order make the word they were taken from (20_memory.md R62). -/
theorem wordOfBytes_bytes (op : Word) : wordOfBytes (highByte op) (lowByte op) = op := by
  apply BitVec.eq_of_toNat_eq; rw [toNat_wordOfBytes, toNat_highByte, toNat_lowByte]; omega

theorem highByte_wordOfBytes (hi lo : Byte) : highByte (wordOfBytes hi lo) = hi := by
  apply BitVec.eq_of_toNat_eq; rw [toNat_highByte, toNat_wordOfBytes]; omega

theorem lowByte_wordOfBytes (hi lo : Byte) : lowByte (wordOfBytes hi lo) = lo := by
  apply BitVec.eq_of_toNat_eq; rw [toNat_lowByte, toNat_wordOfBytes]; omega

/-- What the check of operands says. -/
theorem rawOperands_wellFormed_iff (x y n kk nnn : Nat) : (RawOperands.mk x y n kk nnn).wellFormed = true ↔
    x < 16 ∧ y < 16 ∧ n < 16 ∧ kk < 256 ∧ nnn < 4096 := by
  simp [RawOperands.wellFormed, and_assoc]

/-- Every instruction is well formed: its operands have the widths of their fields. -/
theorem instr_wellFormed (i : Instr) : i.wellFormed = true := by
  cases i <;> exact (rawOperands_wellFormed_iff _ _ _ _ _).2 (by refine ⟨?_, ?_, ?_, ?_, ?_⟩ <;> first | decide | exact BitVec.isLt _)

end Sys2Proof
end

