-- ==== Sys2Proof/Laws/State.lean ====
section
/-! SUPPORT. What each named update does to each field of State, and to the reads of a register, a byte and a key: true by
rfl, so that no proof unfolds an update. -/

namespace Sys2Proof.Machine

variable (s : State)

/-! ### writeV -/

@[simp] theorem State.writeV_v (r : Nibble) (b : Byte) : (s.writeV r b).v = s.v.set r.toNat b r.isLt := rfl
@[simp] theorem State.writeV_i (r : Nibble) (b : Byte) : (s.writeV r b).i = s.i := rfl
@[simp] theorem State.writeV_pc (r : Nibble) (b : Byte) : (s.writeV r b).pc = s.pc := rfl
@[simp] theorem State.writeV_stack (r : Nibble) (b : Byte) : (s.writeV r b).stack = s.stack := rfl
@[simp] theorem State.writeV_sp (r : Nibble) (b : Byte) : (s.writeV r b).sp = s.sp := rfl
@[simp] theorem State.writeV_dt (r : Nibble) (b : Byte) : (s.writeV r b).dt = s.dt := rfl
@[simp] theorem State.writeV_st (r : Nibble) (b : Byte) : (s.writeV r b).st = s.st := rfl
@[simp] theorem State.writeV_mem (r : Nibble) (b : Byte) : (s.writeV r b).mem = s.mem := rfl
@[simp] theorem State.writeV_fb (r : Nibble) (b : Byte) : (s.writeV r b).fb = s.fb := rfl
@[simp] theorem State.writeV_keys (r : Nibble) (b : Byte) : (s.writeV r b).keys = s.keys := rfl
@[simp] theorem State.writeV_draw (r : Nibble) (b : Byte) : (s.writeV r b).draw = s.draw := rfl
@[simp] theorem State.writeV_beep (r : Nibble) (b : Byte) : (s.writeV r b).beep = s.beep := rfl
@[simp] theorem State.writeV_halted (r : Nibble) (b : Byte) : (s.writeV r b).halted = s.halted := rfl
@[simp] theorem State.writeV_cause (r : Nibble) (b : Byte) : (s.writeV r b).cause = s.cause := rfl
@[simp] theorem State.writeV_opv (r : Nibble) (b : Byte) : (s.writeV r b).opv = s.opv := rfl
@[simp] theorem State.writeV_faultPc (r : Nibble) (b : Byte) : (s.writeV r b).faultPc = s.faultPc := rfl
@[simp] theorem State.writeV_faultOpcode (r : Nibble) (b : Byte) : (s.writeV r b).faultOpcode = s.faultOpcode := rfl
@[simp] theorem State.writeV_faultAddr (r : Nibble) (b : Byte) : (s.writeV r b).faultAddr = s.faultAddr := rfl
@[simp] theorem State.writeV_shiftSource (r : Nibble) (b : Byte) : (s.writeV r b).shiftSource = s.shiftSource := rfl
@[simp] theorem State.writeV_draws (r : Nibble) (b : Byte) : (s.writeV r b).draws = s.draws := rfl
@[simp] theorem State.writeV_readByte (r : Nibble) (b : Byte) (a : Nat) : (s.writeV r b).readByte a = s.readByte a := rfl
@[simp] theorem State.writeV_key (r : Nibble) (b : Byte) (k : Nat) : (s.writeV r b).key k = s.key k := rfl

/-! ### setV -/

@[simp] theorem State.setV_v (v : Vector Byte 16) : (s.setV v).v = v := rfl
@[simp] theorem State.setV_i (v : Vector Byte 16) : (s.setV v).i = s.i := rfl
@[simp] theorem State.setV_pc (v : Vector Byte 16) : (s.setV v).pc = s.pc := rfl
@[simp] theorem State.setV_stack (v : Vector Byte 16) : (s.setV v).stack = s.stack := rfl
@[simp] theorem State.setV_sp (v : Vector Byte 16) : (s.setV v).sp = s.sp := rfl
@[simp] theorem State.setV_dt (v : Vector Byte 16) : (s.setV v).dt = s.dt := rfl
@[simp] theorem State.setV_st (v : Vector Byte 16) : (s.setV v).st = s.st := rfl
@[simp] theorem State.setV_mem (v : Vector Byte 16) : (s.setV v).mem = s.mem := rfl
@[simp] theorem State.setV_fb (v : Vector Byte 16) : (s.setV v).fb = s.fb := rfl
@[simp] theorem State.setV_keys (v : Vector Byte 16) : (s.setV v).keys = s.keys := rfl
@[simp] theorem State.setV_draw (v : Vector Byte 16) : (s.setV v).draw = s.draw := rfl
@[simp] theorem State.setV_beep (v : Vector Byte 16) : (s.setV v).beep = s.beep := rfl
@[simp] theorem State.setV_halted (v : Vector Byte 16) : (s.setV v).halted = s.halted := rfl
@[simp] theorem State.setV_cause (v : Vector Byte 16) : (s.setV v).cause = s.cause := rfl
@[simp] theorem State.setV_opv (v : Vector Byte 16) : (s.setV v).opv = s.opv := rfl
@[simp] theorem State.setV_faultPc (v : Vector Byte 16) : (s.setV v).faultPc = s.faultPc := rfl
@[simp] theorem State.setV_faultOpcode (v : Vector Byte 16) : (s.setV v).faultOpcode = s.faultOpcode := rfl
@[simp] theorem State.setV_faultAddr (v : Vector Byte 16) : (s.setV v).faultAddr = s.faultAddr := rfl
@[simp] theorem State.setV_shiftSource (v : Vector Byte 16) : (s.setV v).shiftSource = s.shiftSource := rfl
@[simp] theorem State.setV_draws (v : Vector Byte 16) : (s.setV v).draws = s.draws := rfl
@[simp] theorem State.setV_readByte (v : Vector Byte 16) (a : Nat) : (s.setV v).readByte a = s.readByte a := rfl
@[simp] theorem State.setV_key (v : Vector Byte 16) (k : Nat) : (s.setV v).key k = s.key k := rfl

/-! ### setPc -/

@[simp] theorem State.setPc_v (w : Word) : (s.setPc w).v = s.v := rfl
@[simp] theorem State.setPc_i (w : Word) : (s.setPc w).i = s.i := rfl
@[simp] theorem State.setPc_pc (w : Word) : (s.setPc w).pc = w := rfl
@[simp] theorem State.setPc_stack (w : Word) : (s.setPc w).stack = s.stack := rfl
@[simp] theorem State.setPc_sp (w : Word) : (s.setPc w).sp = s.sp := rfl
@[simp] theorem State.setPc_dt (w : Word) : (s.setPc w).dt = s.dt := rfl
@[simp] theorem State.setPc_st (w : Word) : (s.setPc w).st = s.st := rfl
@[simp] theorem State.setPc_mem (w : Word) : (s.setPc w).mem = s.mem := rfl
@[simp] theorem State.setPc_fb (w : Word) : (s.setPc w).fb = s.fb := rfl
@[simp] theorem State.setPc_keys (w : Word) : (s.setPc w).keys = s.keys := rfl
@[simp] theorem State.setPc_draw (w : Word) : (s.setPc w).draw = s.draw := rfl
@[simp] theorem State.setPc_beep (w : Word) : (s.setPc w).beep = s.beep := rfl
@[simp] theorem State.setPc_halted (w : Word) : (s.setPc w).halted = s.halted := rfl
@[simp] theorem State.setPc_cause (w : Word) : (s.setPc w).cause = s.cause := rfl
@[simp] theorem State.setPc_opv (w : Word) : (s.setPc w).opv = s.opv := rfl
@[simp] theorem State.setPc_faultPc (w : Word) : (s.setPc w).faultPc = s.faultPc := rfl
@[simp] theorem State.setPc_faultOpcode (w : Word) : (s.setPc w).faultOpcode = s.faultOpcode := rfl
@[simp] theorem State.setPc_faultAddr (w : Word) : (s.setPc w).faultAddr = s.faultAddr := rfl
@[simp] theorem State.setPc_shiftSource (w : Word) : (s.setPc w).shiftSource = s.shiftSource := rfl
@[simp] theorem State.setPc_draws (w : Word) : (s.setPc w).draws = s.draws := rfl
@[simp] theorem State.setPc_readV (w : Word) (q : Nibble) : (s.setPc w).readV q = s.readV q := rfl
@[simp] theorem State.setPc_readByte (w : Word) (a : Nat) : (s.setPc w).readByte a = s.readByte a := rfl
@[simp] theorem State.setPc_key (w : Word) (k : Nat) : (s.setPc w).key k = s.key k := rfl

/-! ### setI -/

@[simp] theorem State.setI_v (w : Word) : (s.setI w).v = s.v := rfl
@[simp] theorem State.setI_i (w : Word) : (s.setI w).i = w := rfl
@[simp] theorem State.setI_pc (w : Word) : (s.setI w).pc = s.pc := rfl
@[simp] theorem State.setI_stack (w : Word) : (s.setI w).stack = s.stack := rfl
@[simp] theorem State.setI_sp (w : Word) : (s.setI w).sp = s.sp := rfl
@[simp] theorem State.setI_dt (w : Word) : (s.setI w).dt = s.dt := rfl
@[simp] theorem State.setI_st (w : Word) : (s.setI w).st = s.st := rfl
@[simp] theorem State.setI_mem (w : Word) : (s.setI w).mem = s.mem := rfl
@[simp] theorem State.setI_fb (w : Word) : (s.setI w).fb = s.fb := rfl
@[simp] theorem State.setI_keys (w : Word) : (s.setI w).keys = s.keys := rfl
@[simp] theorem State.setI_draw (w : Word) : (s.setI w).draw = s.draw := rfl
@[simp] theorem State.setI_beep (w : Word) : (s.setI w).beep = s.beep := rfl
@[simp] theorem State.setI_halted (w : Word) : (s.setI w).halted = s.halted := rfl
@[simp] theorem State.setI_cause (w : Word) : (s.setI w).cause = s.cause := rfl
@[simp] theorem State.setI_opv (w : Word) : (s.setI w).opv = s.opv := rfl
@[simp] theorem State.setI_faultPc (w : Word) : (s.setI w).faultPc = s.faultPc := rfl
@[simp] theorem State.setI_faultOpcode (w : Word) : (s.setI w).faultOpcode = s.faultOpcode := rfl
@[simp] theorem State.setI_faultAddr (w : Word) : (s.setI w).faultAddr = s.faultAddr := rfl
@[simp] theorem State.setI_shiftSource (w : Word) : (s.setI w).shiftSource = s.shiftSource := rfl
@[simp] theorem State.setI_draws (w : Word) : (s.setI w).draws = s.draws := rfl
@[simp] theorem State.setI_readV (w : Word) (q : Nibble) : (s.setI w).readV q = s.readV q := rfl
@[simp] theorem State.setI_readByte (w : Word) (a : Nat) : (s.setI w).readByte a = s.readByte a := rfl
@[simp] theorem State.setI_key (w : Word) (k : Nat) : (s.setI w).key k = s.key k := rfl

/-! ### setDt -/

@[simp] theorem State.setDt_v (b : Byte) : (s.setDt b).v = s.v := rfl
@[simp] theorem State.setDt_i (b : Byte) : (s.setDt b).i = s.i := rfl
@[simp] theorem State.setDt_pc (b : Byte) : (s.setDt b).pc = s.pc := rfl
@[simp] theorem State.setDt_stack (b : Byte) : (s.setDt b).stack = s.stack := rfl
@[simp] theorem State.setDt_sp (b : Byte) : (s.setDt b).sp = s.sp := rfl
@[simp] theorem State.setDt_dt (b : Byte) : (s.setDt b).dt = b := rfl
@[simp] theorem State.setDt_st (b : Byte) : (s.setDt b).st = s.st := rfl
@[simp] theorem State.setDt_mem (b : Byte) : (s.setDt b).mem = s.mem := rfl
@[simp] theorem State.setDt_fb (b : Byte) : (s.setDt b).fb = s.fb := rfl
@[simp] theorem State.setDt_keys (b : Byte) : (s.setDt b).keys = s.keys := rfl
@[simp] theorem State.setDt_draw (b : Byte) : (s.setDt b).draw = s.draw := rfl
@[simp] theorem State.setDt_beep (b : Byte) : (s.setDt b).beep = s.beep := rfl
@[simp] theorem State.setDt_halted (b : Byte) : (s.setDt b).halted = s.halted := rfl
@[simp] theorem State.setDt_cause (b : Byte) : (s.setDt b).cause = s.cause := rfl
@[simp] theorem State.setDt_opv (b : Byte) : (s.setDt b).opv = s.opv := rfl
@[simp] theorem State.setDt_faultPc (b : Byte) : (s.setDt b).faultPc = s.faultPc := rfl
@[simp] theorem State.setDt_faultOpcode (b : Byte) : (s.setDt b).faultOpcode = s.faultOpcode := rfl
@[simp] theorem State.setDt_faultAddr (b : Byte) : (s.setDt b).faultAddr = s.faultAddr := rfl
@[simp] theorem State.setDt_shiftSource (b : Byte) : (s.setDt b).shiftSource = s.shiftSource := rfl
@[simp] theorem State.setDt_draws (b : Byte) : (s.setDt b).draws = s.draws := rfl
@[simp] theorem State.setDt_readV (b : Byte) (q : Nibble) : (s.setDt b).readV q = s.readV q := rfl
@[simp] theorem State.setDt_readByte (b : Byte) (a : Nat) : (s.setDt b).readByte a = s.readByte a := rfl
@[simp] theorem State.setDt_key (b : Byte) (k : Nat) : (s.setDt b).key k = s.key k := rfl

/-! ### setSt -/

@[simp] theorem State.setSt_v (b : Byte) : (s.setSt b).v = s.v := rfl
@[simp] theorem State.setSt_i (b : Byte) : (s.setSt b).i = s.i := rfl
@[simp] theorem State.setSt_pc (b : Byte) : (s.setSt b).pc = s.pc := rfl
@[simp] theorem State.setSt_stack (b : Byte) : (s.setSt b).stack = s.stack := rfl
@[simp] theorem State.setSt_sp (b : Byte) : (s.setSt b).sp = s.sp := rfl
@[simp] theorem State.setSt_dt (b : Byte) : (s.setSt b).dt = s.dt := rfl
@[simp] theorem State.setSt_st (b : Byte) : (s.setSt b).st = b := rfl
@[simp] theorem State.setSt_mem (b : Byte) : (s.setSt b).mem = s.mem := rfl
@[simp] theorem State.setSt_fb (b : Byte) : (s.setSt b).fb = s.fb := rfl
@[simp] theorem State.setSt_keys (b : Byte) : (s.setSt b).keys = s.keys := rfl
@[simp] theorem State.setSt_draw (b : Byte) : (s.setSt b).draw = s.draw := rfl
@[simp] theorem State.setSt_beep (b : Byte) : (s.setSt b).beep = s.beep := rfl
@[simp] theorem State.setSt_halted (b : Byte) : (s.setSt b).halted = s.halted := rfl
@[simp] theorem State.setSt_cause (b : Byte) : (s.setSt b).cause = s.cause := rfl
@[simp] theorem State.setSt_opv (b : Byte) : (s.setSt b).opv = s.opv := rfl
@[simp] theorem State.setSt_faultPc (b : Byte) : (s.setSt b).faultPc = s.faultPc := rfl
@[simp] theorem State.setSt_faultOpcode (b : Byte) : (s.setSt b).faultOpcode = s.faultOpcode := rfl
@[simp] theorem State.setSt_faultAddr (b : Byte) : (s.setSt b).faultAddr = s.faultAddr := rfl
@[simp] theorem State.setSt_shiftSource (b : Byte) : (s.setSt b).shiftSource = s.shiftSource := rfl
@[simp] theorem State.setSt_draws (b : Byte) : (s.setSt b).draws = s.draws := rfl
@[simp] theorem State.setSt_readV (b : Byte) (q : Nibble) : (s.setSt b).readV q = s.readV q := rfl
@[simp] theorem State.setSt_readByte (b : Byte) (a : Nat) : (s.setSt b).readByte a = s.readByte a := rfl
@[simp] theorem State.setSt_key (b : Byte) (k : Nat) : (s.setSt b).key k = s.key k := rfl

/-! ### setMem -/

@[simp] theorem State.setMem_v (m : Memory) : (s.setMem m).v = s.v := rfl
@[simp] theorem State.setMem_i (m : Memory) : (s.setMem m).i = s.i := rfl
@[simp] theorem State.setMem_pc (m : Memory) : (s.setMem m).pc = s.pc := rfl
@[simp] theorem State.setMem_stack (m : Memory) : (s.setMem m).stack = s.stack := rfl
@[simp] theorem State.setMem_sp (m : Memory) : (s.setMem m).sp = s.sp := rfl
@[simp] theorem State.setMem_dt (m : Memory) : (s.setMem m).dt = s.dt := rfl
@[simp] theorem State.setMem_st (m : Memory) : (s.setMem m).st = s.st := rfl
@[simp] theorem State.setMem_mem (m : Memory) : (s.setMem m).mem = m := rfl
@[simp] theorem State.setMem_fb (m : Memory) : (s.setMem m).fb = s.fb := rfl
@[simp] theorem State.setMem_keys (m : Memory) : (s.setMem m).keys = s.keys := rfl
@[simp] theorem State.setMem_draw (m : Memory) : (s.setMem m).draw = s.draw := rfl
@[simp] theorem State.setMem_beep (m : Memory) : (s.setMem m).beep = s.beep := rfl
@[simp] theorem State.setMem_halted (m : Memory) : (s.setMem m).halted = s.halted := rfl
@[simp] theorem State.setMem_cause (m : Memory) : (s.setMem m).cause = s.cause := rfl
@[simp] theorem State.setMem_opv (m : Memory) : (s.setMem m).opv = s.opv := rfl
@[simp] theorem State.setMem_faultPc (m : Memory) : (s.setMem m).faultPc = s.faultPc := rfl
@[simp] theorem State.setMem_faultOpcode (m : Memory) : (s.setMem m).faultOpcode = s.faultOpcode := rfl
@[simp] theorem State.setMem_faultAddr (m : Memory) : (s.setMem m).faultAddr = s.faultAddr := rfl
@[simp] theorem State.setMem_shiftSource (m : Memory) : (s.setMem m).shiftSource = s.shiftSource := rfl
@[simp] theorem State.setMem_draws (m : Memory) : (s.setMem m).draws = s.draws := rfl
@[simp] theorem State.setMem_readV (m : Memory) (q : Nibble) : (s.setMem m).readV q = s.readV q := rfl
@[simp] theorem State.setMem_key (m : Memory) (k : Nat) : (s.setMem m).key k = s.key k := rfl

/-! ### setFbDraw -/

@[simp] theorem State.setFbDraw_v (fb : Framebuffer) : (s.setFbDraw fb).v = s.v := rfl
@[simp] theorem State.setFbDraw_i (fb : Framebuffer) : (s.setFbDraw fb).i = s.i := rfl
@[simp] theorem State.setFbDraw_pc (fb : Framebuffer) : (s.setFbDraw fb).pc = s.pc := rfl
@[simp] theorem State.setFbDraw_stack (fb : Framebuffer) : (s.setFbDraw fb).stack = s.stack := rfl
@[simp] theorem State.setFbDraw_sp (fb : Framebuffer) : (s.setFbDraw fb).sp = s.sp := rfl
@[simp] theorem State.setFbDraw_dt (fb : Framebuffer) : (s.setFbDraw fb).dt = s.dt := rfl
@[simp] theorem State.setFbDraw_st (fb : Framebuffer) : (s.setFbDraw fb).st = s.st := rfl
@[simp] theorem State.setFbDraw_mem (fb : Framebuffer) : (s.setFbDraw fb).mem = s.mem := rfl
@[simp] theorem State.setFbDraw_fb (fb : Framebuffer) : (s.setFbDraw fb).fb = fb := rfl
@[simp] theorem State.setFbDraw_keys (fb : Framebuffer) : (s.setFbDraw fb).keys = s.keys := rfl
@[simp] theorem State.setFbDraw_draw (fb : Framebuffer) : (s.setFbDraw fb).draw = true := rfl
@[simp] theorem State.setFbDraw_beep (fb : Framebuffer) : (s.setFbDraw fb).beep = s.beep := rfl
@[simp] theorem State.setFbDraw_halted (fb : Framebuffer) : (s.setFbDraw fb).halted = s.halted := rfl
@[simp] theorem State.setFbDraw_cause (fb : Framebuffer) : (s.setFbDraw fb).cause = s.cause := rfl
@[simp] theorem State.setFbDraw_opv (fb : Framebuffer) : (s.setFbDraw fb).opv = s.opv := rfl
@[simp] theorem State.setFbDraw_faultPc (fb : Framebuffer) : (s.setFbDraw fb).faultPc = s.faultPc := rfl
@[simp] theorem State.setFbDraw_faultOpcode (fb : Framebuffer) : (s.setFbDraw fb).faultOpcode = s.faultOpcode := rfl
@[simp] theorem State.setFbDraw_faultAddr (fb : Framebuffer) : (s.setFbDraw fb).faultAddr = s.faultAddr := rfl
@[simp] theorem State.setFbDraw_shiftSource (fb : Framebuffer) : (s.setFbDraw fb).shiftSource = s.shiftSource := rfl
@[simp] theorem State.setFbDraw_draws (fb : Framebuffer) : (s.setFbDraw fb).draws = s.draws := rfl
@[simp] theorem State.setFbDraw_readV (fb : Framebuffer) (q : Nibble) : (s.setFbDraw fb).readV q = s.readV q := rfl
@[simp] theorem State.setFbDraw_readByte (fb : Framebuffer) (a : Nat) : (s.setFbDraw fb).readByte a = s.readByte a := rfl
@[simp] theorem State.setFbDraw_key (fb : Framebuffer) (k : Nat) : (s.setFbDraw fb).key k = s.key k := rfl

/-! ### setKeys -/

@[simp] theorem State.setKeys_v (k : BitVec 16) : (s.setKeys k).v = s.v := rfl
@[simp] theorem State.setKeys_i (k : BitVec 16) : (s.setKeys k).i = s.i := rfl
@[simp] theorem State.setKeys_pc (k : BitVec 16) : (s.setKeys k).pc = s.pc := rfl
@[simp] theorem State.setKeys_stack (k : BitVec 16) : (s.setKeys k).stack = s.stack := rfl
@[simp] theorem State.setKeys_sp (k : BitVec 16) : (s.setKeys k).sp = s.sp := rfl
@[simp] theorem State.setKeys_dt (k : BitVec 16) : (s.setKeys k).dt = s.dt := rfl
@[simp] theorem State.setKeys_st (k : BitVec 16) : (s.setKeys k).st = s.st := rfl
@[simp] theorem State.setKeys_mem (k : BitVec 16) : (s.setKeys k).mem = s.mem := rfl
@[simp] theorem State.setKeys_fb (k : BitVec 16) : (s.setKeys k).fb = s.fb := rfl
@[simp] theorem State.setKeys_keys (k : BitVec 16) : (s.setKeys k).keys = k := rfl
@[simp] theorem State.setKeys_draw (k : BitVec 16) : (s.setKeys k).draw = s.draw := rfl
@[simp] theorem State.setKeys_beep (k : BitVec 16) : (s.setKeys k).beep = s.beep := rfl
@[simp] theorem State.setKeys_halted (k : BitVec 16) : (s.setKeys k).halted = s.halted := rfl
@[simp] theorem State.setKeys_cause (k : BitVec 16) : (s.setKeys k).cause = s.cause := rfl
@[simp] theorem State.setKeys_opv (k : BitVec 16) : (s.setKeys k).opv = s.opv := rfl
@[simp] theorem State.setKeys_faultPc (k : BitVec 16) : (s.setKeys k).faultPc = s.faultPc := rfl
@[simp] theorem State.setKeys_faultOpcode (k : BitVec 16) : (s.setKeys k).faultOpcode = s.faultOpcode := rfl
@[simp] theorem State.setKeys_faultAddr (k : BitVec 16) : (s.setKeys k).faultAddr = s.faultAddr := rfl
@[simp] theorem State.setKeys_shiftSource (k : BitVec 16) : (s.setKeys k).shiftSource = s.shiftSource := rfl
@[simp] theorem State.setKeys_draws (k : BitVec 16) : (s.setKeys k).draws = s.draws := rfl
@[simp] theorem State.setKeys_readV (k : BitVec 16) (q : Nibble) : (s.setKeys k).readV q = s.readV q := rfl
@[simp] theorem State.setKeys_readByte (k : BitVec 16) (a : Nat) : (s.setKeys k).readByte a = s.readByte a := rfl

/-! ### setShiftSource -/

@[simp] theorem State.setShiftSource_v (src : ShiftSource) : (s.setShiftSource src).v = s.v := rfl
@[simp] theorem State.setShiftSource_i (src : ShiftSource) : (s.setShiftSource src).i = s.i := rfl
@[simp] theorem State.setShiftSource_pc (src : ShiftSource) : (s.setShiftSource src).pc = s.pc := rfl
@[simp] theorem State.setShiftSource_stack (src : ShiftSource) : (s.setShiftSource src).stack = s.stack := rfl
@[simp] theorem State.setShiftSource_sp (src : ShiftSource) : (s.setShiftSource src).sp = s.sp := rfl
@[simp] theorem State.setShiftSource_dt (src : ShiftSource) : (s.setShiftSource src).dt = s.dt := rfl
@[simp] theorem State.setShiftSource_st (src : ShiftSource) : (s.setShiftSource src).st = s.st := rfl
@[simp] theorem State.setShiftSource_mem (src : ShiftSource) : (s.setShiftSource src).mem = s.mem := rfl
@[simp] theorem State.setShiftSource_fb (src : ShiftSource) : (s.setShiftSource src).fb = s.fb := rfl
@[simp] theorem State.setShiftSource_keys (src : ShiftSource) : (s.setShiftSource src).keys = s.keys := rfl
@[simp] theorem State.setShiftSource_draw (src : ShiftSource) : (s.setShiftSource src).draw = s.draw := rfl
@[simp] theorem State.setShiftSource_beep (src : ShiftSource) : (s.setShiftSource src).beep = s.beep := rfl
@[simp] theorem State.setShiftSource_halted (src : ShiftSource) : (s.setShiftSource src).halted = s.halted := rfl
@[simp] theorem State.setShiftSource_cause (src : ShiftSource) : (s.setShiftSource src).cause = s.cause := rfl
@[simp] theorem State.setShiftSource_opv (src : ShiftSource) : (s.setShiftSource src).opv = s.opv := rfl
@[simp] theorem State.setShiftSource_faultPc (src : ShiftSource) : (s.setShiftSource src).faultPc = s.faultPc := rfl
@[simp] theorem State.setShiftSource_faultOpcode (src : ShiftSource) : (s.setShiftSource src).faultOpcode = s.faultOpcode := rfl
@[simp] theorem State.setShiftSource_faultAddr (src : ShiftSource) : (s.setShiftSource src).faultAddr = s.faultAddr := rfl
@[simp] theorem State.setShiftSource_shiftSource (src : ShiftSource) : (s.setShiftSource src).shiftSource = src := rfl
@[simp] theorem State.setShiftSource_draws (src : ShiftSource) : (s.setShiftSource src).draws = s.draws := rfl
@[simp] theorem State.setShiftSource_readV (src : ShiftSource) (q : Nibble) : (s.setShiftSource src).readV q = s.readV q := rfl
@[simp] theorem State.setShiftSource_readByte (src : ShiftSource) (a : Nat) : (s.setShiftSource src).readByte a = s.readByte a := rfl
@[simp] theorem State.setShiftSource_key (src : ShiftSource) (k : Nat) : (s.setShiftSource src).key k = s.key k := rfl

/-! ### countDraw -/

@[simp] theorem State.countDraw_v : (s.countDraw).v = s.v := rfl
@[simp] theorem State.countDraw_i : (s.countDraw).i = s.i := rfl
@[simp] theorem State.countDraw_pc : (s.countDraw).pc = s.pc := rfl
@[simp] theorem State.countDraw_stack : (s.countDraw).stack = s.stack := rfl
@[simp] theorem State.countDraw_sp : (s.countDraw).sp = s.sp := rfl
@[simp] theorem State.countDraw_dt : (s.countDraw).dt = s.dt := rfl
@[simp] theorem State.countDraw_st : (s.countDraw).st = s.st := rfl
@[simp] theorem State.countDraw_mem : (s.countDraw).mem = s.mem := rfl
@[simp] theorem State.countDraw_fb : (s.countDraw).fb = s.fb := rfl
@[simp] theorem State.countDraw_keys : (s.countDraw).keys = s.keys := rfl
@[simp] theorem State.countDraw_draw : (s.countDraw).draw = s.draw := rfl
@[simp] theorem State.countDraw_beep : (s.countDraw).beep = s.beep := rfl
@[simp] theorem State.countDraw_halted : (s.countDraw).halted = s.halted := rfl
@[simp] theorem State.countDraw_cause : (s.countDraw).cause = s.cause := rfl
@[simp] theorem State.countDraw_opv : (s.countDraw).opv = s.opv := rfl
@[simp] theorem State.countDraw_faultPc : (s.countDraw).faultPc = s.faultPc := rfl
@[simp] theorem State.countDraw_faultOpcode : (s.countDraw).faultOpcode = s.faultOpcode := rfl
@[simp] theorem State.countDraw_faultAddr : (s.countDraw).faultAddr = s.faultAddr := rfl
@[simp] theorem State.countDraw_shiftSource : (s.countDraw).shiftSource = s.shiftSource := rfl
@[simp] theorem State.countDraw_draws : (s.countDraw).draws = s.draws + 1 := rfl
@[simp] theorem State.countDraw_readV (q : Nibble) : (s.countDraw).readV q = s.readV q := rfl
@[simp] theorem State.countDraw_readByte (a : Nat) : (s.countDraw).readByte a = s.readByte a := rfl
@[simp] theorem State.countDraw_key (k : Nat) : (s.countDraw).key k = s.key k := rfl

/-! ### advance -/

@[simp] theorem State.advance_v : (s.advance).v = s.v := rfl
@[simp] theorem State.advance_i : (s.advance).i = s.i := rfl
@[simp] theorem State.advance_pc : (s.advance).pc = s.pc + 2 := rfl
@[simp] theorem State.advance_stack : (s.advance).stack = s.stack := rfl
@[simp] theorem State.advance_sp : (s.advance).sp = s.sp := rfl
@[simp] theorem State.advance_dt : (s.advance).dt = s.dt := rfl
@[simp] theorem State.advance_st : (s.advance).st = s.st := rfl
@[simp] theorem State.advance_mem : (s.advance).mem = s.mem := rfl
@[simp] theorem State.advance_fb : (s.advance).fb = s.fb := rfl
@[simp] theorem State.advance_keys : (s.advance).keys = s.keys := rfl
@[simp] theorem State.advance_draw : (s.advance).draw = s.draw := rfl
@[simp] theorem State.advance_beep : (s.advance).beep = s.beep := rfl
@[simp] theorem State.advance_halted : (s.advance).halted = s.halted := rfl
@[simp] theorem State.advance_cause : (s.advance).cause = s.cause := rfl
@[simp] theorem State.advance_opv : (s.advance).opv = s.opv := rfl
@[simp] theorem State.advance_faultPc : (s.advance).faultPc = s.faultPc := rfl
@[simp] theorem State.advance_faultOpcode : (s.advance).faultOpcode = s.faultOpcode := rfl
@[simp] theorem State.advance_faultAddr : (s.advance).faultAddr = s.faultAddr := rfl
@[simp] theorem State.advance_shiftSource : (s.advance).shiftSource = s.shiftSource := rfl
@[simp] theorem State.advance_draws : (s.advance).draws = s.draws := rfl
@[simp] theorem State.advance_readV (q : Nibble) : (s.advance).readV q = s.readV q := rfl
@[simp] theorem State.advance_readByte (a : Nat) : (s.advance).readByte a = s.readByte a := rfl
@[simp] theorem State.advance_key (k : Nat) : (s.advance).key k = s.key k := rfl

/-! ### clearFlags -/

@[simp] theorem State.clearFlags_v : (s.clearFlags).v = s.v := rfl
@[simp] theorem State.clearFlags_i : (s.clearFlags).i = s.i := rfl
@[simp] theorem State.clearFlags_pc : (s.clearFlags).pc = s.pc := rfl
@[simp] theorem State.clearFlags_stack : (s.clearFlags).stack = s.stack := rfl
@[simp] theorem State.clearFlags_sp : (s.clearFlags).sp = s.sp := rfl
@[simp] theorem State.clearFlags_dt : (s.clearFlags).dt = s.dt := rfl
@[simp] theorem State.clearFlags_st : (s.clearFlags).st = s.st := rfl
@[simp] theorem State.clearFlags_mem : (s.clearFlags).mem = s.mem := rfl
@[simp] theorem State.clearFlags_fb : (s.clearFlags).fb = s.fb := rfl
@[simp] theorem State.clearFlags_keys : (s.clearFlags).keys = s.keys := rfl
@[simp] theorem State.clearFlags_draw : (s.clearFlags).draw = false := rfl
@[simp] theorem State.clearFlags_beep : (s.clearFlags).beep = false := rfl
@[simp] theorem State.clearFlags_halted : (s.clearFlags).halted = s.halted := rfl
@[simp] theorem State.clearFlags_cause : (s.clearFlags).cause = s.cause := rfl
@[simp] theorem State.clearFlags_opv : (s.clearFlags).opv = s.opv := rfl
@[simp] theorem State.clearFlags_faultPc : (s.clearFlags).faultPc = s.faultPc := rfl
@[simp] theorem State.clearFlags_faultOpcode : (s.clearFlags).faultOpcode = s.faultOpcode := rfl
@[simp] theorem State.clearFlags_faultAddr : (s.clearFlags).faultAddr = s.faultAddr := rfl
@[simp] theorem State.clearFlags_shiftSource : (s.clearFlags).shiftSource = s.shiftSource := rfl
@[simp] theorem State.clearFlags_draws : (s.clearFlags).draws = s.draws := rfl
@[simp] theorem State.clearFlags_readV (q : Nibble) : (s.clearFlags).readV q = s.readV q := rfl
@[simp] theorem State.clearFlags_readByte (a : Nat) : (s.clearFlags).readByte a = s.readByte a := rfl
@[simp] theorem State.clearFlags_key (k : Nat) : (s.clearFlags).key k = s.key k := rfl

/-! ### tick -/

@[simp] theorem State.tick_v : (s.tick).v = s.v := rfl
@[simp] theorem State.tick_i : (s.tick).i = s.i := rfl
@[simp] theorem State.tick_pc : (s.tick).pc = s.pc := rfl
@[simp] theorem State.tick_stack : (s.tick).stack = s.stack := rfl
@[simp] theorem State.tick_sp : (s.tick).sp = s.sp := rfl
@[simp] theorem State.tick_dt : (s.tick).dt = tickTimer s.dt := rfl
@[simp] theorem State.tick_st : (s.tick).st = tickTimer s.st := rfl
@[simp] theorem State.tick_mem : (s.tick).mem = s.mem := rfl
@[simp] theorem State.tick_fb : (s.tick).fb = s.fb := rfl
@[simp] theorem State.tick_keys : (s.tick).keys = s.keys := rfl
@[simp] theorem State.tick_draw : (s.tick).draw = s.draw := rfl
@[simp] theorem State.tick_beep : (s.tick).beep = if s.st = 1 then true else s.beep := rfl
@[simp] theorem State.tick_halted : (s.tick).halted = s.halted := rfl
@[simp] theorem State.tick_cause : (s.tick).cause = s.cause := rfl
@[simp] theorem State.tick_opv : (s.tick).opv = s.opv := rfl
@[simp] theorem State.tick_faultPc : (s.tick).faultPc = s.faultPc := rfl
@[simp] theorem State.tick_faultOpcode : (s.tick).faultOpcode = s.faultOpcode := rfl
@[simp] theorem State.tick_faultAddr : (s.tick).faultAddr = s.faultAddr := rfl
@[simp] theorem State.tick_shiftSource : (s.tick).shiftSource = s.shiftSource := rfl
@[simp] theorem State.tick_draws : (s.tick).draws = s.draws := rfl
@[simp] theorem State.tick_readV (q : Nibble) : (s.tick).readV q = s.readV q := rfl
@[simp] theorem State.tick_readByte (a : Nat) : (s.tick).readByte a = s.readByte a := rfl
@[simp] theorem State.tick_key (k : Nat) : (s.tick).key k = s.key k := rfl

/-! ### begun -/

@[simp] theorem State.begun_v : (s.begun).v = s.v := rfl
@[simp] theorem State.begun_i : (s.begun).i = s.i := rfl
@[simp] theorem State.begun_pc : (s.begun).pc = s.pc := rfl
@[simp] theorem State.begun_stack : (s.begun).stack = s.stack := rfl
@[simp] theorem State.begun_sp : (s.begun).sp = s.sp := rfl
@[simp] theorem State.begun_dt : (s.begun).dt = tickTimer s.dt := rfl
@[simp] theorem State.begun_st : (s.begun).st = tickTimer s.st := rfl
@[simp] theorem State.begun_mem : (s.begun).mem = s.mem := rfl
@[simp] theorem State.begun_fb : (s.begun).fb = s.fb := rfl
@[simp] theorem State.begun_keys : (s.begun).keys = s.keys := rfl
@[simp] theorem State.begun_draw : (s.begun).draw = false := rfl
@[simp] theorem State.begun_beep : (s.begun).beep = decide (s.st = 1) := by
  change (if s.st = 1 then true else false) = _
  split <;> simp_all
@[simp] theorem State.begun_halted : (s.begun).halted = s.halted := rfl
@[simp] theorem State.begun_cause : (s.begun).cause = s.cause := rfl
@[simp] theorem State.begun_opv : (s.begun).opv = s.opv := rfl
@[simp] theorem State.begun_faultPc : (s.begun).faultPc = s.faultPc := rfl
@[simp] theorem State.begun_faultOpcode : (s.begun).faultOpcode = s.faultOpcode := rfl
@[simp] theorem State.begun_faultAddr : (s.begun).faultAddr = s.faultAddr := rfl
@[simp] theorem State.begun_shiftSource : (s.begun).shiftSource = s.shiftSource := rfl
@[simp] theorem State.begun_draws : (s.begun).draws = s.draws := rfl
@[simp] theorem State.begun_readV (q : Nibble) : (s.begun).readV q = s.readV q := rfl
@[simp] theorem State.begun_readByte (a : Nat) : (s.begun).readByte a = s.readByte a := rfl
@[simp] theorem State.begun_key (k : Nat) : (s.begun).key k = s.key k := rfl

/-! ### raiseFault -/

@[simp] theorem State.raiseFault_v (c : Cause) (op : Option Word) (addr : Word) : (s.raiseFault c op addr).v = s.v := rfl
@[simp] theorem State.raiseFault_i (c : Cause) (op : Option Word) (addr : Word) : (s.raiseFault c op addr).i = s.i := rfl
@[simp] theorem State.raiseFault_pc (c : Cause) (op : Option Word) (addr : Word) : (s.raiseFault c op addr).pc = s.pc := rfl
@[simp] theorem State.raiseFault_stack (c : Cause) (op : Option Word) (addr : Word) : (s.raiseFault c op addr).stack = s.stack := rfl
@[simp] theorem State.raiseFault_sp (c : Cause) (op : Option Word) (addr : Word) : (s.raiseFault c op addr).sp = s.sp := rfl
@[simp] theorem State.raiseFault_dt (c : Cause) (op : Option Word) (addr : Word) : (s.raiseFault c op addr).dt = s.dt := rfl
@[simp] theorem State.raiseFault_st (c : Cause) (op : Option Word) (addr : Word) : (s.raiseFault c op addr).st = s.st := rfl
@[simp] theorem State.raiseFault_mem (c : Cause) (op : Option Word) (addr : Word) : (s.raiseFault c op addr).mem = s.mem := rfl
@[simp] theorem State.raiseFault_fb (c : Cause) (op : Option Word) (addr : Word) : (s.raiseFault c op addr).fb = s.fb := rfl
@[simp] theorem State.raiseFault_keys (c : Cause) (op : Option Word) (addr : Word) : (s.raiseFault c op addr).keys = s.keys := rfl
@[simp] theorem State.raiseFault_draw (c : Cause) (op : Option Word) (addr : Word) : (s.raiseFault c op addr).draw = s.draw := rfl
@[simp] theorem State.raiseFault_beep (c : Cause) (op : Option Word) (addr : Word) : (s.raiseFault c op addr).beep = s.beep := rfl
@[simp] theorem State.raiseFault_halted (c : Cause) (op : Option Word) (addr : Word) : (s.raiseFault c op addr).halted = true := rfl
@[simp] theorem State.raiseFault_cause (c : Cause) (op : Option Word) (addr : Word) : (s.raiseFault c op addr).cause = c := rfl
@[simp] theorem State.raiseFault_opv (c : Cause) (op : Option Word) (addr : Word) : (s.raiseFault c op addr).opv = op.isSome := rfl
@[simp] theorem State.raiseFault_faultPc (c : Cause) (op : Option Word) (addr : Word) : (s.raiseFault c op addr).faultPc = s.pc := rfl
@[simp] theorem State.raiseFault_faultOpcode (c : Cause) (op : Option Word) (addr : Word) : (s.raiseFault c op addr).faultOpcode = op.getD 0 := rfl
@[simp] theorem State.raiseFault_faultAddr (c : Cause) (op : Option Word) (addr : Word) : (s.raiseFault c op addr).faultAddr = if c = .memoryFault then addr else 0 := rfl
@[simp] theorem State.raiseFault_shiftSource (c : Cause) (op : Option Word) (addr : Word) : (s.raiseFault c op addr).shiftSource = s.shiftSource := rfl
@[simp] theorem State.raiseFault_draws (c : Cause) (op : Option Word) (addr : Word) : (s.raiseFault c op addr).draws = s.draws := rfl
@[simp] theorem State.raiseFault_readV (c : Cause) (op : Option Word) (addr : Word) (q : Nibble) : (s.raiseFault c op addr).readV q = s.readV q := rfl
@[simp] theorem State.raiseFault_readByte (c : Cause) (op : Option Word) (addr : Word) (a : Nat) : (s.raiseFault c op addr).readByte a = s.readByte a := rfl
@[simp] theorem State.raiseFault_key (c : Cause) (op : Option Word) (addr : Word) (k : Nat) : (s.raiseFault c op addr).key k = s.key k := rfl

/-! ### Reads after the updates that change them -/

/-- A register read after a register write (10_state.md R21). -/
@[simp] theorem State.writeV_readV (r q : Nibble) (b : Byte) :
    (s.writeV r b).readV q = if q = r then b else s.readV q := by
  simp only [State.readV, State.writeV, Vector.getElem_set, BitVec.toNat_inj, eq_comm]

@[simp] theorem State.setMem_readByte (m : Memory) (a : Nat) : (s.setMem m).readByte a = Memory.read m a := rfl

/-- The same, of a register file as a whole. -/
@[simp] theorem State.setV_readV (v : Vector Byte 16) (q : Nibble) : (s.setV v).readV q = v[q.toNat]'q.isLt := rfl

@[simp] theorem State.setKeys_key (k : BitVec 16) (n : Nat) : (s.setKeys k).key n = k.getLsbD n := rfl

/-! ### writeFlagged, skipIf: combinations of the above -/

@[simp] theorem State.writeFlagged_i (x : Nibble) (r : Byte) (g : Bool) : (s.writeFlagged x r g).i = s.i := rfl
@[simp] theorem State.writeFlagged_pc (x : Nibble) (r : Byte) (g : Bool) : (s.writeFlagged x r g).pc = s.pc := rfl
@[simp] theorem State.writeFlagged_stack (x : Nibble) (r : Byte) (g : Bool) : (s.writeFlagged x r g).stack = s.stack := rfl
@[simp] theorem State.writeFlagged_sp (x : Nibble) (r : Byte) (g : Bool) : (s.writeFlagged x r g).sp = s.sp := rfl
@[simp] theorem State.writeFlagged_dt (x : Nibble) (r : Byte) (g : Bool) : (s.writeFlagged x r g).dt = s.dt := rfl
@[simp] theorem State.writeFlagged_st (x : Nibble) (r : Byte) (g : Bool) : (s.writeFlagged x r g).st = s.st := rfl
@[simp] theorem State.writeFlagged_mem (x : Nibble) (r : Byte) (g : Bool) : (s.writeFlagged x r g).mem = s.mem := rfl
@[simp] theorem State.writeFlagged_fb (x : Nibble) (r : Byte) (g : Bool) : (s.writeFlagged x r g).fb = s.fb := rfl
@[simp] theorem State.writeFlagged_keys (x : Nibble) (r : Byte) (g : Bool) : (s.writeFlagged x r g).keys = s.keys := rfl
@[simp] theorem State.writeFlagged_draw (x : Nibble) (r : Byte) (g : Bool) : (s.writeFlagged x r g).draw = s.draw := rfl
@[simp] theorem State.writeFlagged_beep (x : Nibble) (r : Byte) (g : Bool) : (s.writeFlagged x r g).beep = s.beep := rfl
@[simp] theorem State.writeFlagged_halted (x : Nibble) (r : Byte) (g : Bool) : (s.writeFlagged x r g).halted = s.halted := rfl
@[simp] theorem State.writeFlagged_cause (x : Nibble) (r : Byte) (g : Bool) : (s.writeFlagged x r g).cause = s.cause := rfl
@[simp] theorem State.writeFlagged_opv (x : Nibble) (r : Byte) (g : Bool) : (s.writeFlagged x r g).opv = s.opv := rfl
@[simp] theorem State.writeFlagged_faultPc (x : Nibble) (r : Byte) (g : Bool) : (s.writeFlagged x r g).faultPc = s.faultPc := rfl
@[simp] theorem State.writeFlagged_faultOpcode (x : Nibble) (r : Byte) (g : Bool) : (s.writeFlagged x r g).faultOpcode = s.faultOpcode := rfl
@[simp] theorem State.writeFlagged_faultAddr (x : Nibble) (r : Byte) (g : Bool) : (s.writeFlagged x r g).faultAddr = s.faultAddr := rfl
@[simp] theorem State.writeFlagged_shiftSource (x : Nibble) (r : Byte) (g : Bool) : (s.writeFlagged x r g).shiftSource = s.shiftSource := rfl
@[simp] theorem State.writeFlagged_draws (x : Nibble) (r : Byte) (g : Bool) : (s.writeFlagged x r g).draws = s.draws := rfl
@[simp] theorem State.writeFlagged_readByte (x : Nibble) (r : Byte) (g : Bool) (a : Nat) :
    (s.writeFlagged x r g).readByte a = s.readByte a := rfl

/-- VF ends as the flag, whatever x is; V[x] is the result unless x = F (43_alu.md R150). -/
@[simp] theorem State.writeFlagged_readV (x : Nibble) (r : Byte) (g : Bool) (q : Nibble) :
    (s.writeFlagged x r g).readV q = if q = 0xF then flagByte g else if q = x then r else s.readV q := by
  simp [State.writeFlagged]

/-- A skip in one form: PC + 4 if the condition holds, else PC + 2 (42_skip.md R140). -/
theorem State.skipIf_eq (c : Bool) : s.skipIf c = s.setPc (if c then s.pc + 4 else s.pc + 2) := by
  cases c
  · rfl
  · simp only [State.skipIf, State.advance, State.setPc, if_true, BitVec.add_assoc]
    rfl

end Sys2Proof.Machine
end

