-- ==== Sys2Proof/Laws/Memory.lean ====
section
/-! SUPPORT. The laws of memory: reads after writes, and the canonical form that every operation keeps. -/

namespace Sys2Proof.Machine

theorem unlisted_out_of_range (a : Nat) (h : 80 ≤ a) : unlisted a = 0 := by
  simp [unlisted, Nat.not_lt.mpr h]

/-! ### The canonical form -/

theorem Memory.wfFrom_cons (lo a : Nat) (b : Byte) (rest : Memory) :
    Memory.wfFrom lo ((a, b) :: rest) = true ↔
      lo ≤ a ∧ a < 4096 ∧ b ≠ unlisted a ∧ Memory.wfFrom (a + 1) rest = true := by
  simp [Memory.wfFrom, and_assoc]

theorem Memory.wfFrom_mono {lo lo' : Nat} (h : lo' ≤ lo) : ∀ {m : Memory}, Memory.wfFrom lo m = true →
    Memory.wfFrom lo' m = true
  | [], _ => rfl
  | (a, b) :: rest, hm => by
    rw [Memory.wfFrom_cons] at hm ⊢
    exact ⟨by omega, hm.2⟩

/-- An address below the first that may be listed reads as the reset image. -/
theorem Memory.read_below : ∀ {m : Memory} {lo a : Nat}, Memory.wfFrom lo m = true → a < lo →
    Memory.read m a = unlisted a
  | [], _, _, _, _ => rfl
  | (c, d) :: rest, lo, a, hm, ha => by
    rw [Memory.wfFrom_cons] at hm
    have hne : c ≠ a := by omega
    simp only [Memory.read, hne, if_false]
    exact Memory.read_below hm.2.2.2 (by omega)

theorem Memory.put_wfFrom : ∀ {m : Memory} {lo a : Nat} (b : Byte), Memory.wfFrom lo m = true → lo ≤ a →
    a < 4096 → Memory.wfFrom lo (Memory.put m a b) = true
  | [], lo, a, b, _, hlo, ha => by
    by_cases hb : b = unlisted a
    · simp [Memory.put, hb, Memory.wfFrom]
    · simp [Memory.put, hb, Memory.wfFrom, hlo, ha]
  | (c, d) :: rest, lo, a, b, hm, hlo, ha => by
    have hm' := hm
    rw [Memory.wfFrom_cons] at hm
    simp only [Memory.put]
    split
    · split
      · exact hm'
      · rename_i hac hb
        rw [Memory.wfFrom_cons, Memory.wfFrom_cons]
        exact ⟨hlo, ha, hb, by omega, hm.2⟩
    · split
      · rename_i hac heq
        subst heq
        split
        · exact Memory.wfFrom_mono (by omega) hm.2.2.2
        · rename_i hb
          rw [Memory.wfFrom_cons]
          exact ⟨hlo, ha, hb, hm.2.2.2⟩
      · rename_i hac hne
        rw [Memory.wfFrom_cons]
        exact ⟨hm.1, hm.2.1, hm.2.2.1, Memory.put_wfFrom b hm.2.2.2 (by omega) ha⟩

/-- A write keeps the canonical form. -/
theorem Memory.write_wf {m : Memory} (a : Nat) (b : Byte) (h : Memory.wf m = true) :
    Memory.wf (Memory.write m a b) = true := by
  unfold Memory.write
  split
  · exact Memory.put_wfFrom b h (Nat.zero_le a) ‹_›
  · exact h

/-- Writing bytes in a row keeps the canonical form. -/
theorem Memory.writeList_wf : ∀ (bs : List Byte) {m : Memory} (a : Nat), Memory.wf m = true →
    Memory.wf (Memory.writeList m a bs) = true
  | [], _, _, h => h
  | b :: bs, _, a, h => Memory.writeList_wf bs (a + 1) (Memory.write_wf a b h)

/-- The memory of State.reset is canonical. -/
theorem State.reset_mem_wf : Memory.wf State.reset.mem = true := rfl

/-! ### Reads after writes -/

/-- A put leaves every other address alone, in any list. -/
theorem Memory.read_put_ne : ∀ (m : Memory) {a a' : Nat} (b : Byte), a' ≠ a →
    Memory.read (Memory.put m a b) a' = Memory.read m a'
  | [], a, a', b, h => by
    have h' : a ≠ a' := Ne.symm h
    unfold Memory.put
    split <;> simp [Memory.read, h']
  | (c, d) :: rest, a, a', b, h => by
    have h' : a ≠ a' := Ne.symm h
    unfold Memory.put
    split
    · split <;> simp [Memory.read, h']
    · split
      · rename_i _ heq
        subst heq
        split <;> simp [Memory.read, h']
      · simp [Memory.read, Memory.read_put_ne rest b h]

/-- A put gives the byte put, in a canonical memory. -/
theorem Memory.read_put_self : ∀ {m : Memory} {lo a : Nat} (b : Byte), Memory.wfFrom lo m = true →
    Memory.read (Memory.put m a b) a = b
  | [], _, a, b, _ => by
    unfold Memory.put
    split <;> simp_all [Memory.read]
  | (c, d) :: rest, _, a, b, hm => by
    have hm' := hm
    rw [Memory.wfFrom_cons] at hm
    unfold Memory.put
    split
    · rename_i hac
      split
      · rename_i hb
        rw [hb]
        exact Memory.read_below (Memory.wfFrom_mono (Nat.le_refl c)
          ((Memory.wfFrom_cons c c d rest).2 ⟨Nat.le_refl c, hm.2⟩)) hac
      · simp [Memory.read]
    · split
      · rename_i _ heq
        subst heq
        split
        · rename_i hb
          rw [hb]
          exact Memory.read_below hm.2.2.2 (by omega)
        · simp [Memory.read]
      · rename_i _ hne
        have hca : c ≠ a := fun h => hne h.symm
        simp [Memory.read, hca, Memory.read_put_self b hm.2.2.2]

/-- A write leaves every other address alone. -/
theorem Memory.read_write_ne (m : Memory) {a a' : Nat} (b : Byte) (h : a' ≠ a) :
    Memory.read (Memory.write m a b) a' = Memory.read m a' := by
  unfold Memory.write
  split
  · exact Memory.read_put_ne m b h
  · rfl

/-- Bytes written in a row leave every address outside them alone. -/
theorem Memory.read_writeList_outside : ∀ (bs : List Byte) (m : Memory) {a a' : Nat},
    a' < a ∨ a + bs.length ≤ a' → Memory.read (Memory.writeList m a bs) a' = Memory.read m a'
  | [], _, _, _, _ => rfl
  | b :: bs, m, a, a', h => by
    simp only [List.length_cons] at h
    rw [Memory.writeList, Memory.read_writeList_outside bs _ (by omega), Memory.read_write_ne m b (by omega)]

/-- Bytes written in a row read back, in a canonical memory and within it. -/
theorem Memory.read_writeList_inside : ∀ (bs : List Byte) {m : Memory} {a : Nat}, Memory.wf m = true →
    a + bs.length ≤ 4096 → ∀ (j : Nat) (hj : j < bs.length),
    Memory.read (Memory.writeList m a bs) (a + j) = bs[j]
  | [], _, _, _, _, j, hj => absurd hj (Nat.not_lt_zero j)
  | b :: bs, m, a, hm, hlen, 0, _ => by
    simp only [List.length_cons] at hlen
    rw [Memory.writeList, Memory.read_writeList_outside bs _ (by omega)]
    simp only [Memory.write, Nat.add_zero, show a < 4096 by omega, if_true, List.getElem_cons_zero]
    exact Memory.read_put_self b hm
  | b :: bs, m, a, hm, hlen, j + 1, hj => by
    simp only [List.length_cons] at hlen hj
    have := Memory.read_writeList_inside bs (Memory.write_wf a b hm) (a := a + 1) (by omega) j (by omega)
    rw [Memory.writeList, List.getElem_cons_succ, ← this]
    congr 1
    omega

/-! ### Reading in a row -/

@[simp] theorem Memory.readList_length (m : Memory) : ∀ (n a : Nat), (Memory.readList m a n).length = n
  | 0, _ => rfl
  | n + 1, a => by simp [Memory.readList, Memory.readList_length m n]

/-- The j-th byte read in a row is the byte at its address. -/
theorem Memory.readList_getElem (m : Memory) : ∀ (n a j : Nat) (h : j < (Memory.readList m a n).length),
    (Memory.readList m a n)[j] = Memory.read m (a + j)
  | 0, _, j, h => absurd h (Nat.not_lt_zero j)
  | n + 1, a, 0, _ => rfl
  | n + 1, a, j + 1, h => by
    have := Memory.readList_getElem m n (a + 1) j (by simpa [Memory.readList] using h)
    simp only [Memory.readList, List.getElem_cons_succ, this]
    congr 1
    omega

/-! ### CheckRange -/

/-- A range that leaves memory raises MemoryFault at max(a, 4096) (00_scope.md R12). -/
theorem rangeFault_of_gt {a len : Nat} (h : 0 < len ∧ 4096 < a + len) :
    rangeFault a len = some (BitVec.ofNat 16 (max a 4096)) := by simp [rangeFault, h]

/-- A range within memory, or an empty one, raises nothing. -/
theorem rangeFault_of_le {a len : Nat} (h : len = 0 ∨ a + len ≤ 4096) : rangeFault a len = none := by
  simp only [rangeFault, ite_eq_right_iff]
  omega

end Sys2Proof.Machine
end

