-- ==== Sys2Proof/Laws/Framebuffer.lean ====
section
/-! SUPPORT. The laws of the framebuffer: what one flip, one sprite row and a whole sprite do to a pixel and to the
collision. -/

namespace Sys2Proof.Machine

theorem getLsbD_mask : ∀ k < 8, ∀ j < 8, (0x80#8 >>> k).getLsbD j = decide (j = 7 - k) := by decide

@[simp] theorem pixel_clearFb (x y : Nat) : pixel clearFb x y = false := by
  simp [pixel, clearFb]

theorem pixel_off_grid (fb : Framebuffer) {x y : Nat} (h : ¬(x < 64 ∧ y < 32)) : pixel fb x y = false := by
  simp [pixel, h]

/-- A flip inverts its own pixel and leaves every other alone. -/
theorem pixel_flipPixel (fb : Framebuffer) {px py : Nat} (h : px < 64 ∧ py < 32) (x y : Nat) :
    pixel (flipPixel fb px py) x y = (pixel fb x y ^^ decide (x = px ∧ y = py)) := by
  by_cases hxy : x < 64 ∧ y < 32
  · simp only [pixel, flipPixel, h, hxy, dif_pos, and_self, Vector.getElem_set]
    by_cases hidx : 8 * py + px / 8 = 8 * y + x / 8
    · have hm := getLsbD_mask (px % 8) (by omega) (7 - x % 8) (by omega)
      simp only [hidx, if_true, BitVec.getLsbD_xor, hm]
      congr 1
      exact decide_eq_decide.mpr (by omega)
    · have hne : ¬(x = px ∧ y = py) := by rintro ⟨rfl, rfl⟩; exact hidx rfl
      simp [hidx, hne]
  · have hne : ¬(x = px ∧ y = py) := by rintro ⟨rfl, rfl⟩; exact hxy h
    simp [pixel, hxy, hne]

/-- What a sprite row with byte `row` at (a, py) contributes to pixel (x, y) from its columns below k. -/
def rowBit (row : Byte) (a py k x y : Nat) : Bool :=
  decide (x < 64 ∧ y < 32 ∧ y = py ∧ a ≤ x ∧ x < a + k) && row.getLsbD (7 - (x - a))

/-- One column: everything `drawBit` does to a pixel. -/
theorem pixel_drawBit (row : Byte) (a py c : Nat) (acc : Framebuffer × Bool) (x y : Nat) :
    pixel (drawBit row a py acc c).1 x y =
      (pixel acc.1 x y ^^ (decide (x < 64 ∧ y < 32 ∧ y = py ∧ x = a + c) && row.getLsbD (7 - c))) := by
  unfold drawBit plot
  cases hb : row.getLsbD (7 - c)
  · simp
  · simp only [if_true]
    split
    · rename_i hin
      rw [pixel_flipPixel _ hin]
      congr 1
      rw [Bool.and_true]
      exact decide_eq_decide.mpr (by omega)
    · rename_i hout
      have : ¬(x < 64 ∧ y < 32 ∧ y = py ∧ x = a + c) := by rintro ⟨h1, h2, rfl, rfl⟩; exact hout ⟨h1, h2⟩
      simp [this]

/-- One column: everything `drawBit` does to the collision. -/
theorem drawBit_snd (row : Byte) (a py c : Nat) (acc : Framebuffer × Bool) :
    (drawBit row a py acc c).2 =
      (acc.2 || (decide (a + c < 64 ∧ py < 32) && row.getLsbD (7 - c) && pixel acc.1 (a + c) py)) := by
  unfold drawBit plot
  cases hb : row.getLsbD (7 - c)
  · simp
  · by_cases hin : a + c < 64 ∧ py < 32 <;> simp [hin]

/-- The first k columns of a row, as one fold. -/
def drawCols (row : Byte) (a py : Nat) (acc : Framebuffer × Bool) (k : Nat) : Framebuffer × Bool :=
  (List.range k).foldl (drawBit row a py) acc

theorem drawCols_succ (row : Byte) (a py : Nat) (acc : Framebuffer × Bool) (k : Nat) :
    drawCols row a py acc (k + 1) = drawBit row a py (drawCols row a py acc k) k := by
  simp [drawCols, List.range_succ]

theorem rowBit_succ (row : Byte) (a py k x y : Nat) :
    rowBit row a py (k + 1) x y =
      (rowBit row a py k x y ^^ (decide (x < 64 ∧ y < 32 ∧ y = py ∧ x = a + k) && row.getLsbD (7 - k))) := by
  unfold rowBit
  by_cases hx : x = a + k
  · subst hx
    have e1 : a + k - a = k := by omega
    have e2 : decide (a + k < 64 ∧ y < 32 ∧ y = py ∧ a ≤ a + k ∧ a + k < a + k) = false := by simp
    have e3 : decide (a + k < 64 ∧ y < 32 ∧ y = py ∧ a ≤ a + k ∧ a + k < a + (k + 1)) =
        decide (a + k < 64 ∧ y < 32 ∧ y = py ∧ a + k = a + k) := decide_eq_decide.mpr (by omega)
    rw [e1, e2, e3, Bool.false_and, Bool.false_xor]
  · have e3 : decide (x < 64 ∧ y < 32 ∧ y = py ∧ a ≤ x ∧ x < a + (k + 1)) =
        decide (x < 64 ∧ y < 32 ∧ y = py ∧ a ≤ x ∧ x < a + k) := decide_eq_decide.mpr (by omega)
    rw [e3]
    simp [hx]

theorem pixel_drawCols (row : Byte) (a py : Nat) (acc : Framebuffer × Bool) (x y : Nat) :
    ∀ k, pixel (drawCols row a py acc k).1 x y = (pixel acc.1 x y ^^ rowBit row a py k x y)
  | 0 => by
    have : rowBit row a py 0 x y = false := by
      simp only [rowBit, Bool.and_eq_false_iff, decide_eq_false_iff_not]; left; omega
    simp [this, drawCols]
  | k + 1 => by
    rw [drawCols_succ, pixel_drawBit, pixel_drawCols row a py acc x y k, rowBit_succ, Bool.xor_assoc]

/-- The collision of the first k columns: a pixel of the grid that was on before the row and has a sprite bit. -/
theorem drawCols_snd (row : Byte) (a py : Nat) (acc : Framebuffer × Bool) :
    ∀ k, (drawCols row a py acc k).2 = true ↔
      acc.2 = true ∨ ∃ x y, rowBit row a py k x y = true ∧ pixel acc.1 x y = true
  | 0 => by
    have : ∀ x y, rowBit row a py 0 x y = false := fun x y => by
      simp only [rowBit, Bool.and_eq_false_iff, decide_eq_false_iff_not]; left; omega
    simp [this, drawCols]
  | k + 1 => by
    have hz : rowBit row a py k (a + k) py = false := by
      simp only [rowBit, Bool.and_eq_false_iff, decide_eq_false_iff_not]; left; omega
    rw [drawCols_succ, drawBit_snd, Bool.or_eq_true, drawCols_snd row a py acc k, pixel_drawCols, hz, Bool.xor_false]
    simp only [Bool.and_eq_true, decide_eq_true_eq, rowBit_succ]
    constructor
    · rintro ((h | ⟨x, y, hr, hp⟩) | ⟨⟨hin, hb⟩, hp⟩)
      · exact .inl h
      · refine .inr ⟨x, y, ?_, hp⟩
        have hne : ¬(x < 64 ∧ y < 32 ∧ y = py ∧ x = a + k) := by
          rintro ⟨-, -, rfl, rfl⟩; rw [hz] at hr; exact Bool.noConfusion hr
        simp [hr, hne]
      · exact .inr ⟨a + k, py, by simp [hz, hb, hin], hp⟩
    · rintro (h | ⟨x, y, hr, hp⟩)
      · exact .inl (.inl h)
      · by_cases hxy : x < 64 ∧ y < 32 ∧ y = py ∧ x = a + k
        · obtain ⟨h1, h2, rfl, rfl⟩ := hxy
          rw [hz, Bool.false_xor, Bool.and_eq_true] at hr
          exact .inr ⟨⟨⟨h1, h2⟩, hr.2⟩, hp⟩
        · rw [decide_eq_false hxy, Bool.false_and, Bool.xor_false] at hr
          exact .inl (.inr ⟨x, y, hr, hp⟩)

/-- What the rows `rows`, the first at screen row b, contribute to pixel (x, y). -/
def rowsBit (rows : List Byte) (a b x y : Nat) : Bool :=
  decide (x < 64 ∧ y < 32 ∧ a ≤ x ∧ x < a + 8 ∧ b ≤ y ∧ y < b + rows.length) &&
    ((rows[y - b]?).getD 0).getLsbD (7 - (x - a))

theorem rowsBit_cons (row : Byte) (rows : List Byte) (a b x y : Nat) :
    rowsBit (row :: rows) a b x y = (rowBit row a b 8 x y ^^ rowsBit rows a (b + 1) x y) := by
  unfold rowsBit rowBit
  simp only [List.length_cons]
  by_cases hy : y = b
  · subst hy
    have e2 : decide (x < 64 ∧ y < 32 ∧ a ≤ x ∧ x < a + 8 ∧ y + 1 ≤ y ∧ y < y + 1 + rows.length) = false := by simp
    have e1 : decide (x < 64 ∧ y < 32 ∧ a ≤ x ∧ x < a + 8 ∧ y ≤ y ∧ y < y + (rows.length + 1)) =
        decide (x < 64 ∧ y < 32 ∧ y = y ∧ a ≤ x ∧ x < a + 8) := decide_eq_decide.mpr (by omega)
    rw [e1, e2]
    simp
  · have e1 : decide (x < 64 ∧ y < 32 ∧ y = b ∧ a ≤ x ∧ x < a + 8) = false := by simp [hy]
    rw [e1, Bool.false_and, Bool.false_xor]
    by_cases hlt : y < b
    · have e2 : decide (x < 64 ∧ y < 32 ∧ a ≤ x ∧ x < a + 8 ∧ b ≤ y ∧ y < b + (rows.length + 1)) = false :=
        decide_eq_false (by omega)
      have e3 : decide (x < 64 ∧ y < 32 ∧ a ≤ x ∧ x < a + 8 ∧ b + 1 ≤ y ∧ y < b + 1 + rows.length) = false :=
        decide_eq_false (by omega)
      rw [e2, e3, Bool.false_and, Bool.false_and]
    · have e2 : decide (x < 64 ∧ y < 32 ∧ a ≤ x ∧ x < a + 8 ∧ b ≤ y ∧ y < b + (rows.length + 1)) =
          decide (x < 64 ∧ y < 32 ∧ a ≤ x ∧ x < a + 8 ∧ b + 1 ≤ y ∧ y < b + 1 + rows.length) :=
        decide_eq_decide.mpr (by omega)
      have e3 : y - b = (y - (b + 1)) + 1 := by omega
      rw [e2, e3, List.getElem?_cons_succ]

/-- A whole sprite: everything it does to a pixel. -/
theorem pixel_drawRows (a : Nat) : ∀ (rows : List Byte) (b : Nat) (acc : Framebuffer × Bool) (x y : Nat),
    pixel (drawRows a b rows acc).1 x y = (pixel acc.1 x y ^^ rowsBit rows a b x y)
  | [], b, acc, x, y => by
    have : rowsBit [] a b x y = false := by
      simp only [rowsBit, Bool.and_eq_false_iff, decide_eq_false_iff_not, List.length_nil]; left; omega
    simp [this, drawRows]
  | row :: rows, b, acc, x, y => by
    rw [drawRows, pixel_drawRows a rows (b + 1), rowsBit_cons, ← Bool.xor_assoc]
    congr 1
    exact pixel_drawCols row a b acc x y 8

/-- A sprite row has nothing to say of a pixel of another row. -/
theorem rowBit_other_row {row : Byte} {a b k x y : Nat} (h : y ≠ b) : rowBit row a b k x y = false := by
  simp [rowBit, h]

theorem rowsBit_above {rows : List Byte} {a b x y : Nat} (h : y < b) : rowsBit rows a b x y = false := by
  simp only [rowsBit, Bool.and_eq_false_iff, decide_eq_false_iff_not]; left; omega

/-- A whole sprite: its collision is a pixel that was on before it and has a sprite bit (45_display.md R203). -/
theorem drawRows_snd (a : Nat) : ∀ (rows : List Byte) (b : Nat) (acc : Framebuffer × Bool),
    (drawRows a b rows acc).2 = true ↔
      acc.2 = true ∨ ∃ x y, rowsBit rows a b x y = true ∧ pixel acc.1 x y = true
  | [], b, acc => by
    have : ∀ x y, rowsBit [] a b x y = false := fun x y => by
      simp only [rowsBit, Bool.and_eq_false_iff, decide_eq_false_iff_not, List.length_nil]; left; omega
    simp [this, drawRows]
  | row :: rows, b, acc => by
    have hp := pixel_drawCols row a b acc (k := 8)
    have hs := drawCols_snd row a b acc 8
    rw [drawRows, drawRows_snd a rows (b + 1), show drawRow row a b acc = drawCols row a b acc 8 from rfl, hs]
    simp only [hp, rowsBit_cons, or_assoc]
    refine or_congr_right ⟨?_, ?_⟩
    · rintro (⟨x, y, hr, hx⟩ | ⟨x, y, hr, hx⟩)
      · have hy : y = b := by
          by_contra hne; rw [rowBit_other_row hne] at hr; exact Bool.noConfusion hr
        exact ⟨x, y, by rw [hr, rowsBit_above (by omega)]; rfl, hx⟩
      · have hy : y ≠ b := by
          rintro rfl; rw [rowsBit_above (by omega)] at hr; exact Bool.noConfusion hr
        rw [rowBit_other_row hy, Bool.xor_false] at hx
        exact ⟨x, y, by rw [hr, rowBit_other_row hy]; rfl, hx⟩
    · rintro ⟨x, y, hr, hx⟩
      by_cases hy : y = b
      · rw [rowsBit_above (by omega), Bool.xor_false] at hr
        exact .inl ⟨x, y, hr, hx⟩
      · rw [rowBit_other_row hy, Bool.false_xor] at hr
        exact .inr ⟨x, y, hr, by rw [rowBit_other_row hy, Bool.xor_false]; exact hx⟩

end Sys2Proof.Machine
end

