-- ==== Sys2Proof/Laws/Ops.lean ====
section
/-! SUPPORT. One lemma per shared operation that says everything it can do. -/

namespace Sys2Proof.Machine

/-! ### Operands and flags -/

/-- `(a + b) mod 256` is the sum of bit vectors. -/
theorem sumByte_eq (a b : Byte) : sumByte a b = a + b := by
  apply BitVec.eq_of_toNat_eq; simp [sumByte, BitVec.toNat_add]

/-- `(a - b) mod 256` is the difference of bit vectors. -/
theorem diffByte_eq (a b : Byte) : diffByte a b = a - b := by
  apply BitVec.eq_of_toNat_eq
  rw [diffByte, BitVec.toNat_ofInt, BitVec.toNat_sub]
  omega

theorem toNat_zextAddr (nnn : Addr12) : (zextAddr nnn).toNat = nnn.toNat := by
  simp only [zextAddr, BitVec.toNat_setWidth]; omega

theorem toNat_zextByte (b : Byte) : (zextByte b).toNat = b.toNat := by
  simp only [zextByte, BitVec.toNat_setWidth]; omega

/-- The target of Bnnn is never truncated (41_control.md R134). -/
theorem toNat_jpV0_target (b : Byte) (nnn : Addr12) : (zextByte b + zextAddr nnn).toNat = b.toNat + nnn.toNat := by
  rw [BitVec.toNat_add, toNat_zextByte, toNat_zextAddr]; omega

theorem toNat_glyphAddr (b : Byte) : (glyphAddr b).toNat = b.toNat * 5 := by
  rw [glyphAddr, BitVec.toNat_mul, toNat_zextByte, show (5 : Word).toNat = 5 from rfl]
  omega

@[simp] theorem bcdDigits_length (b : Byte) : (bcdDigits b).length = 3 := rfl

@[simp] theorem State.firstRegs_length (s : State) (x : Nibble) : (s.firstRegs x).length = x.toNat + 1 := by
  have := x.isLt
  simp only [State.firstRegs, List.length_take, Vector.length_toList]
  omega

/-- The j-th byte Fx55 stores is V[j]. -/
theorem State.firstRegs_getElem (s : State) (x r : Nibble) (h : r.toNat < (s.firstRegs x).length) :
    (s.firstRegs x)[r.toNat] = s.readV r := by
  simp only [State.firstRegs, State.readV, List.getElem_take, Vector.getElem_toList]

/-- What Fx65 leaves in V[r]. -/
theorem State.loadedRegs_getElem (s : State) (x r : Nibble) :
    (s.loadedRegs x)[r.toNat]'r.isLt =
      if r.toNat ≤ x.toNat then s.readByte (s.i.toNat + r.toNat) else s.readV r := by
  simp only [State.loadedRegs, State.readV, Vector.getElem_ofFn]
  rfl

/-- The lowest pressed key, if it is one: pressed, and no lower key is. -/
theorem lowestKey_some {keys : BitVec 16} {k : Nat} (h : lowestKey keys = some k) :
    k < 16 ∧ keys.getLsbD k = true ∧ ∀ j < k, keys.getLsbD j = false := by
  rw [lowestKey, List.find?_range_eq_some] at h
  exact ⟨List.mem_range.1 h.2.1, h.1, fun j hj => by simpa using h.2.2 j hj⟩

theorem lowestKey_none {keys : BitVec 16} : lowestKey keys = none ↔ ∀ k < 16, keys.getLsbD k = false := by
  simp [lowestKey]

/-! ### The stack -/

/-- A push: all it does, when SP is below 16. -/
theorem State.pushPc_some {s : State} (h : s.sp.val < 16) :
    s.pushPc = some { s with stack := s.stack.set s.sp.val s.pc h, sp := ⟨s.sp.val + 1, by omega⟩ } := by
  simp [State.pushPc, h]

theorem State.pushPc_none {s : State} (h : s.sp.val = 16) : s.pushPc = none := by
  simp [State.pushPc, h]

/-- A pop: all it does, when SP is above 0. -/
theorem State.popPc_some {s : State} (h : 0 < s.sp.val) :
    s.popPc = some { s with sp := ⟨s.sp.val - 1, by omega⟩, pc := s.stack[s.sp.val - 1]'(by omega) } := by
  simp [State.popPc, h]

theorem State.popPc_none {s : State} (h : s.sp.val = 0) : s.popPc = none := by
  simp [State.popPc, h]

/-! ### The guards: either the instruction's own effect, or its fault -/

/-- A bulk instruction goes on exactly when its range is empty or within memory (20_memory.md R70). -/
theorem guardRange_eq (ins : Instr) (len : Nat) (s ok : State) :
    guardRange ins len s ok =
      if len = 0 ∨ s.i.toNat + len ≤ 4096 then .next ok
      else .next (s.raiseFault .memoryFault (some (encode ins)) (BitVec.ofNat 16 (max s.i.toNat 4096))) := by
  unfold guardRange
  split
  · rename_i addr h
    have hc : ¬(len = 0 ∨ s.i.toNat + len ≤ 4096) := fun hc => by rw [rangeFault_of_le hc] at h; cases h
    rw [if_neg hc]
    rw [rangeFault_of_gt (by omega)] at h
    cases h
    rfl
  · rename_i h
    by_cases hc : len = 0 ∨ s.i.toNat + len ≤ 4096
    · rw [if_pos hc]
    · rw [rangeFault_of_gt (by omega)] at h; cases h

theorem guardKey_eq (ins : Instr) (k : Byte) (s ok : State) :
    guardKey ins k s ok =
      if k.toNat ≤ 0xF then .next ok else .next (s.raiseFault .keyIndexFault (some (encode ins)) 0) := by
  unfold guardKey
  by_cases h : k.toNat ≤ 0xF
  · rw [if_pos h, if_neg (by omega)]
  · rw [if_neg h, if_pos (by omega)]

/-- CALL, as one equation (41_control.md R132). -/
theorem execCall_eq (nnn : Addr12) (s : State) :
    execCall nnn s =
      if h : s.sp.val < 16 then
        .next { s with stack := s.stack.set s.sp.val s.pc h, sp := ⟨s.sp.val + 1, by omega⟩, pc := zextAddr nnn }
      else .next (s.raiseFault .stackOverflow (some (encode (.call nnn))) 0) := by
  unfold execCall guardStack
  by_cases h : s.sp.val < 16
  · rw [State.pushPc_some h, dif_pos h]; rfl
  · rw [State.pushPc_none (by omega), dif_neg h]; rfl

/-- RET, as one equation (41_control.md R133). -/
theorem execRet_eq (s : State) :
    execRet s =
      if h : 0 < s.sp.val then
        .next { s with sp := ⟨s.sp.val - 1, by omega⟩, pc := s.stack[s.sp.val - 1]'(by omega) + 2 }
      else .next (s.raiseFault .stackUnderflow (some (encode .ret)) 0) := by
  unfold execRet guardStack
  by_cases h : 0 < s.sp.val
  · rw [State.popPc_some h, dif_pos h]; rfl
  · rw [State.popPc_none (by omega), dif_neg h]; rfl

/-! ### The host's reset and load -/

@[simp] theorem State.hostReset_draws (s : State) (font : Font) : (s.hostReset font).draws = s.draws := rfl

@[simp] theorem State.hostReset_shiftSource (s : State) (font : Font) :
    (s.hostReset font).shiftSource = s.shiftSource := rfl

@[simp] theorem LoadStatus.code_ok : LoadStatus.code .ok = 0 := rfl

@[simp] theorem LoadStatus.code_loadError : LoadStatus.code .loadError = 1 := rfl

/-- A load, as one equation (70_reset_and_hazards.md R273). -/
theorem State.loadRom_eq (s : State) (font : Font) (bytes : List Byte) :
    s.loadRom font bytes =
      if bytes.length ≤ 3584 then
        (.ok, (s.hostReset font).setMem (Memory.writeList (s.hostReset font).mem 0x200 bytes))
      else (.loadError, s) := by
  by_cases h : bytes.length ≤ 3584 <;> simp [State.loadRom, romWellFormed, h]

/-! ### Sprites in the terms of the claims -/

/-- What `drawRows` contributes to a pixel is the sprite bit of the claims (45_display.md R200, R201). -/
theorem rowsBit_readList (s : State) (x y n : Nibble) (px py : Nat) :
    rowsBit (Memory.readList s.mem s.i.toNat n.toNat) (s.readV x).toNat (s.readV y).toNat px py =
      spriteBit s x y n px py := by
  unfold rowsBit spriteBit
  rw [Memory.readList_length]
  by_cases h : px < 64 ∧ py < 32 ∧ (s.readV x).toNat ≤ px ∧ px < (s.readV x).toNat + 8 ∧ (s.readV y).toNat ≤ py ∧
      py < (s.readV y).toNat + n.toNat
  · have hj : py - (s.readV y).toNat < (Memory.readList s.mem s.i.toNat n.toNat).length := by
      rw [Memory.readList_length]; omega
    rw [List.getElem?_eq_getElem hj, Option.getD_some, Memory.readList_getElem]
    rfl
  · rw [decide_eq_false h, Bool.false_and, Bool.false_and]

end Sys2Proof.Machine
end

