-- ==== Sys2Proof/Laws/Step.lean ====
section
/-! SUPPORT. What a step can do, said once: the four cases of 40_cycle.md R100. -/

namespace Sys2Proof.Machine

@[simp] theorem State.begun_fetchInRange (s : State) : s.begun.fetchInRange = s.fetchInRange := rfl

@[simp] theorem State.begun_fetchOp (s : State) : s.begun.fetchOp = s.fetchOp := rfl

theorem State.fetchInRange_iff (s : State) : s.fetchInRange = true ↔ s.pc.toNat + 1 ≤ 0xFFF := by
  simp [State.fetchInRange]

/-- The opcode of the claims is the opcode fetched. -/
theorem opcodeAt_eq (s : State) : opcodeAt s = s.fetchOp := rfl

/-- A step of a halted core (R108). -/
theorem step_halted {s : State} (h : s.halted = true) : step s = .next s := by
  simp [step, State.cycle, h]

/-- A step whose fetch leaves memory (R104). -/
theorem step_fetchFault {s : State} (h : s.halted = false) (hf : ¬ s.pc.toNat + 1 ≤ 0xFFF) :
    step s = .next (s.begun.raiseFault .memoryFault none s.begun.fetchFaultAddr) := by
  have : s.begun.fetchInRange = false := by
    rw [State.begun_fetchInRange]; simpa [State.fetchInRange] using hf
  simp [step, State.cycle, h, State.dispatch, this]

/-- A step whose word is no instruction (R107). -/
theorem step_decodeError {s : State} (h : s.halted = false) (hf : s.pc.toNat + 1 ≤ 0xFFF)
    (hd : decode s.fetchOp = none) :
    step s = .next (s.begun.raiseFault .decodeError (some s.fetchOp) 0) := by
  have : s.begun.fetchInRange = true := by
    rw [State.begun_fetchInRange]; simpa [State.fetchInRange] using hf
  simp [step, State.cycle, h, State.dispatch, this, hd]

/-- Every step is one of four: halted, a fetch fault, a decode error, or an instruction run on the begun state. -/
theorem step_cases (s : State) :
    (s.halted = true ∧ step s = .next s) ∨
    (s.halted = false ∧ ¬ s.pc.toNat + 1 ≤ 0xFFF ∧
      step s = .next (s.begun.raiseFault .memoryFault none s.begun.fetchFaultAddr)) ∨
    (s.halted = false ∧ s.pc.toNat + 1 ≤ 0xFFF ∧ decode s.fetchOp = none ∧
      step s = .next (s.begun.raiseFault .decodeError (some s.fetchOp) 0)) ∨
    (∃ i, Executes s i ∧ step s = exec i s.begun) := by
  cases h : s.halted
  · by_cases hf : s.pc.toNat + 1 ≤ 0xFFF
    · cases hd : decode s.fetchOp with
      | none => exact .inr (.inr (.inl ⟨rfl, hf, rfl, step_decodeError h hf hd⟩))
      | some i =>
        refine .inr (.inr (.inr ⟨i, ⟨h, hf, hd⟩, ?_⟩))
        have : s.begun.fetchInRange = true := by
          rw [State.begun_fetchInRange]; simpa [State.fetchInRange] using hf
        simp [step, State.cycle, h, State.dispatch, this, hd]
    · exact .inr (.inl ⟨rfl, hf, step_fetchFault h hf⟩)
  · exact .inl ⟨rfl, step_halted h⟩

end Sys2Proof.Machine
end

