-- ==== Sys2Proof/Laws/Exec.lean ====
section
/-! SUPPORT. What exec can do, said once for all instructions: it completes, with each component of the state written only by
the instructions whose rules write it, or it raises the instruction's own fault. -/

namespace Sys2Proof.Machine

/-- FAULT_ADDR of a range check, in the terms of the claims. -/
theorem ofNat_max_eq_firstOutOfRange (w : Word) : BitVec.ofNat 16 (max w.toNat 4096) = firstOutOfRange w := by
  have hw := w.isLt
  have hk : (4096 : Word).toNat = 4096 := rfl
  apply BitVec.eq_of_toNat_eq
  unfold firstOutOfRange
  split <;> simp only [BitVec.toNat_ofNat, hk] <;> omega

/-- `raiseFault` is the fault entry of the claims (60_exceptions.md R245). -/
theorem State.raiseFault_entry (s : State) (c : Cause) (op : Option Word) (addr : Word) :
    FaultEntry c op (if c = .memoryFault then addr else 0) s (s.raiseFault c op addr) :=
  ⟨rfl, rfl, rfl, rfl, rfl, rfl, by intro k hk; cases k <;> simp_all [Component.Same]⟩

/-- Where PC can stand after an instruction. -/
def PcAfter (s : State) (p : Word) : Prop :=
  p.toNat ≤ 0x10FE ∨ p = s.pc ∨ p = s.pc + 2 ∨ p = s.pc + 4 ∨ ∃ j : Fin 16, p = s.stack[j] + 2

/-- `t` is a state instruction i can leave from `s` when it completes. -/
structure Completes (i : Instr) (s t : State) : Prop where
  halt : Component.Same s t .halt
  keys : t.keys = s.keys
  config : t.shiftSource = s.shiftSource
  beep : t.beep = s.beep
  index : t.i = s.i ∨ (∃ n, i = .ldI n) ∨ (∃ x, i = .addI x) ∨ ∃ x, i = .ldF x
  sp : t.sp = s.sp ∨ (∃ n, i = .call n) ∨ i = .ret
  stack : ∀ j : Fin 16, t.stack[j] = s.stack[j] ∨ ((∃ n, i = .call n) ∧ j.val = s.sp.val ∧ t.stack[j] = s.pc)
  mem : ∀ a, t.readByte a = s.readByte a ∨ (∃ x, i = .ldB x ∧ s.i.toNat ≤ a ∧ a ≤ s.i.toNat + 2) ∨
    ∃ x, i = .storeRegs x ∧ s.i.toNat ≤ a ∧ a ≤ s.i.toNat + x.toNat
  fb : (t.fb = s.fb ∧ t.draw = s.draw ∧ i ≠ .cls ∧ ∀ x y n, i ≠ .drw x y n) ∨
    ((i = .cls ∨ ∃ x y n, i = .drw x y n) ∧ t.draw = true)
  dt : (t.dt = s.dt ∧ ∀ x, i ≠ .ldDtVx x) ∨ ∃ x, i = .ldDtVx x ∧ t.dt = s.readV x
  st : (t.st = s.st ∧ ∀ x, i ≠ .ldStVx x) ∨ ∃ x, i = .ldStVx x ∧ t.st = s.readV x
  canonical : MemoryCanonical s → MemoryCanonical t
  pc : PcAfter s t.pc

/-- Instruction i raises fault c, with address `addr`, in state `s`. -/
def Faults (i : Instr) (s : State) (c : Cause) (addr : Word) : Prop :=
  (c = .stackOverflow ∧ addr = 0 ∧ (∃ n, i = .call n) ∧ s.sp.val = 16) ∨
  (c = .stackUnderflow ∧ addr = 0 ∧ i = .ret ∧ s.sp.val = 0) ∨
  (c = .keyIndexFault ∧ addr = 0 ∧ ∃ x, (i = .skp x ∨ i = .sknp x) ∧ 0xF < (s.readV x).toNat) ∨
  (c = .memoryFault ∧ addr = firstOutOfRange s.i ∧ ∃ x,
    (i = .ldB x ∧ 4096 < s.i.toNat + 3) ∨
    ((i = .storeRegs x ∨ i = .loadRegs x) ∧ 4096 < s.i.toNat + x.toNat + 1) ∨
    ∃ y n, i = .drw x y n ∧ 0 < n.toNat ∧ 4096 < s.i.toNat + n.toNat)

/-- What exec can answer: a state in which the instruction completed, or its fault entry. -/
def Answers (i : Instr) (s : State) (o : Host.Outcome State Fault Refusal) : Prop :=
  (∃ t, o = .next t ∧ Completes i s t) ∨
  ∃ c addr, o = .next (s.raiseFault c (some (encode i)) addr) ∧ Faults i s c addr

/-- The instructions that write neither the framebuffer nor a timer. -/
def PlainInstr (i : Instr) : Prop :=
  i ≠ .cls ∧ (∀ x y n, i ≠ .drw x y n) ∧ (∀ x, i ≠ .ldDtVx x) ∧ ∀ x, i ≠ .ldStVx x

/-- An instruction that writes registers, I and PC at most. -/
theorem completes_of_regs {i : Instr} {s : State} (v : Vector Byte 16) (w p : Word) (d : Nat) (h : PlainInstr i)
    (hi : w = s.i ∨ (∃ n, i = .ldI n) ∨ (∃ x, i = .addI x) ∨ ∃ x, i = .ldF x) (hp : PcAfter s p) :
    Completes i s { s with v := v, i := w, pc := p, draws := d } where
  halt := ⟨rfl, rfl, rfl, rfl, rfl, rfl⟩
  keys := rfl
  config := rfl
  beep := rfl
  index := hi
  sp := .inl rfl
  stack _ := .inl rfl
  mem _ := .inl rfl
  fb := .inl ⟨rfl, rfl, h.1, h.2.1⟩
  dt := .inl ⟨rfl, h.2.2.1⟩
  st := .inl ⟨rfl, h.2.2.2⟩
  canonical := id
  pc := hp

/-- An instruction that writes memory. -/
theorem completes_of_mem {i : Instr} {s : State} (bs : List Byte) (h : PlainInstr i)
    (hm : ∀ a, s.i.toNat ≤ a → a < s.i.toNat + bs.length →
      (∃ x, i = .ldB x ∧ s.i.toNat ≤ a ∧ a ≤ s.i.toNat + 2) ∨
      ∃ x, i = .storeRegs x ∧ s.i.toNat ≤ a ∧ a ≤ s.i.toNat + x.toNat) :
    Completes i s (s.setMem (Memory.writeList s.mem s.i.toNat bs)).advance where
  halt := ⟨rfl, rfl, rfl, rfl, rfl, rfl⟩
  keys := rfl
  config := rfl
  beep := rfl
  index := .inl rfl
  sp := .inl rfl
  stack _ := .inl rfl
  mem a := by
    by_cases ha : s.i.toNat ≤ a ∧ a < s.i.toNat + bs.length
    · exact .inr (hm a ha.1 ha.2)
    · exact .inl (Memory.read_writeList_outside _ _ (by omega))
  fb := .inl ⟨rfl, rfl, h.1, h.2.1⟩
  dt := .inl ⟨rfl, h.2.2.1⟩
  st := .inl ⟨rfl, h.2.2.2⟩
  canonical := Memory.writeList_wf _ _
  pc := .inr (.inr (.inl rfl))

/-- An instruction that writes registers, timers and PC at most. -/
theorem completes_of_timers {i : Instr} {s : State} (dt st : Byte) (h : i ≠ .cls ∧ ∀ x y n, i ≠ .drw x y n)
    (hd : (dt = s.dt ∧ ∀ x, i ≠ .ldDtVx x) ∨ ∃ x, i = .ldDtVx x ∧ dt = s.readV x)
    (hs : (st = s.st ∧ ∀ x, i ≠ .ldStVx x) ∨ ∃ x, i = .ldStVx x ∧ st = s.readV x) :
    Completes i s ((s.setDt dt).setSt st).advance where
  halt := ⟨rfl, rfl, rfl, rfl, rfl, rfl⟩
  keys := rfl
  config := rfl
  beep := rfl
  index := .inl rfl
  sp := .inl rfl
  stack _ := .inl rfl
  mem _ := .inl rfl
  fb := .inl ⟨rfl, rfl, h.1, h.2⟩
  dt := hd
  st := hs
  canonical := id
  pc := .inr (.inr (.inl rfl))

/-- An instruction that draws. -/
theorem completes_of_fb {i : Instr} {s : State} (v : Vector Byte 16) (fb : Framebuffer)
    (h : i = .cls ∨ ∃ x y n, i = .drw x y n) : Completes i s ((s.setV v).setFbDraw fb).advance where
  halt := ⟨rfl, rfl, rfl, rfl, rfl, rfl⟩
  keys := rfl
  config := rfl
  beep := rfl
  index := .inl rfl
  sp := .inl rfl
  stack _ := .inl rfl
  mem _ := .inl rfl
  fb := .inr ⟨h, rfl⟩
  dt := .inl ⟨rfl, by rcases h with rfl | ⟨_, _, _, rfl⟩ <;> simp⟩
  st := .inl ⟨rfl, by rcases h with rfl | ⟨_, _, _, rfl⟩ <;> simp⟩
  canonical := id
  pc := .inr (.inr (.inl rfl))

theorem pcAfter_advance (s : State) : PcAfter s (s.pc + 2) := .inr (.inr (.inl rfl))

theorem pcAfter_skip (s : State) (c : Bool) : PcAfter s (if c then s.pc + 4 else s.pc + 2) := by
  cases c
  · exact .inr (.inr (.inl rfl))
  · exact .inr (.inr (.inr (.inl rfl)))

/-- A skip, as a write of PC alone. -/
theorem State.skipIf_record (s : State) (c : Bool) :
    s.skipIf c = { s with v := s.v, i := s.i, pc := if c then s.pc + 4 else s.pc + 2, draws := s.draws } := by
  cases c
  · rfl
  · simp [State.skipIf, State.advance, BitVec.add_assoc]

theorem answers_guardRange {i : Instr} {len : Nat} {s ok : State} (h : Completes i s ok)
    (hf : len ≠ 0 → 4096 < s.i.toNat + len → Faults i s .memoryFault (firstOutOfRange s.i)) :
    Answers i s (guardRange i len s ok) := by
  rw [guardRange_eq]
  split
  · exact .inl ⟨ok, rfl, h⟩
  · rw [ofNat_max_eq_firstOutOfRange]
    exact .inr ⟨_, _, rfl, hf (by omega) (by omega)⟩

theorem answers_guardKey {i : Instr} {k : Byte} {s ok : State} (h : Completes i s ok)
    (hf : 0xF < k.toNat → Faults i s .keyIndexFault 0) : Answers i s (guardKey i k s ok) := by
  rw [guardKey_eq]
  split
  · exact .inl ⟨ok, rfl, h⟩
  · exact .inr ⟨_, _, rfl, hf (by omega)⟩

theorem answers_call (n : Addr12) (s : State) : Answers (.call n) s (execCall n s) := by
  rw [execCall_eq]
  split
  · rename_i h
    refine .inl ⟨_, rfl, ⟨rfl, rfl, rfl, rfl, rfl, rfl⟩, rfl, rfl, rfl, .inl rfl, .inr (.inl ⟨n, rfl⟩), ?_, fun _ => .inl rfl,
      .inl ⟨rfl, rfl, by simp, by simp⟩, .inl ⟨rfl, by simp⟩, .inl ⟨rfl, by simp⟩, id, .inl ?_⟩
    · intro j
      by_cases hj : j.val = s.sp.val
      · exact .inr ⟨⟨n, rfl⟩, hj, by simp [hj]⟩
      · exact .inl (by simp [Ne.symm hj])
    · show (zextAddr n).toNat ≤ _
      rw [toNat_zextAddr]; omega
  · exact .inr ⟨_, _, rfl, .inl ⟨rfl, rfl, ⟨n, rfl⟩, by omega⟩⟩

theorem answers_ret (s : State) : Answers .ret s (execRet s) := by
  rw [execRet_eq]
  split
  · exact .inl ⟨_, rfl, ⟨rfl, rfl, rfl, rfl, rfl, rfl⟩, rfl, rfl, rfl, .inl rfl, .inr (.inr rfl), fun _ => .inl rfl,
      fun _ => .inl rfl, .inl ⟨rfl, rfl, by simp, by simp⟩, .inl ⟨rfl, by simp⟩, .inl ⟨rfl, by simp⟩, id,
      .inr (.inr (.inr (.inr ⟨⟨s.sp.val - 1, by omega⟩, rfl⟩)))⟩
  · exact .inr ⟨_, _, rfl, .inr (.inl ⟨rfl, rfl, rfl, by omega⟩)⟩

/-- `PlainInstr` of a given instruction. -/
theorem plain_of {i : Instr} (h : i ≠ .cls := by simp) (h₁ : ∀ x y n, i ≠ .drw x y n := by simp)
    (h₂ : ∀ x, i ≠ .ldDtVx x := by simp) (h₃ : ∀ x, i ≠ .ldStVx x := by simp) : PlainInstr i := ⟨h, h₁, h₂, h₃⟩

theorem answers_skip {i : Instr} (h : PlainInstr i) (s : State) (c : Bool) : Completes i s (s.skipIf c) := by
  rw [State.skipIf_record]
  exact completes_of_regs _ _ _ _ h (.inl rfl) (pcAfter_skip s c)

/-- A register write and the advance. -/
theorem answers_regs {i : Instr} (h : PlainInstr i) (s : State) (v : Vector Byte 16) (d : Nat) :
    Answers i s (.next { s with v := v, pc := s.pc + 2, draws := d }) :=
  .inl ⟨_, rfl, completes_of_regs v s.i _ d h (.inl rfl) (pcAfter_advance s)⟩

/-- A write of all of V and the advance. -/
theorem completes_setV {i : Instr} (h : PlainInstr i) (s : State) (v : Vector Byte 16) :
    Completes i s (s.setV v).advance :=
  completes_of_regs v s.i _ s.draws h (.inl rfl) (pcAfter_advance s)

/-- A write of I and the advance. -/
theorem answers_index {i : Instr} (h : PlainInstr i) (s : State) (w : Word)
    (hi : (∃ n, i = .ldI n) ∨ (∃ x, i = .addI x) ∨ ∃ x, i = .ldF x) : Answers i s (.next (s.setI w).advance) :=
  .inl ⟨_, rfl, completes_of_regs s.v w _ s.draws h (.inr hi) (pcAfter_advance s)⟩

/-- Every answer of exec: completion or the instruction's own fault, for all 34 instructions. -/
theorem exec_answers (i : Instr) (s : State) : Answers i s (exec i s) := by
  cases i with
  | cls => exact .inl ⟨_, rfl, completes_of_fb s.v clearFb (.inl rfl)⟩
  | ret => exact answers_ret s
  | jp n =>
    refine .inl ⟨_, rfl, completes_of_regs s.v s.i (zextAddr n) s.draws plain_of (.inl rfl) (.inl ?_)⟩
    rw [toNat_zextAddr]; omega
  | call n => exact answers_call n s
  | seImm x kk => exact .inl ⟨_, rfl, answers_skip plain_of s _⟩
  | sneImm x kk => exact .inl ⟨_, rfl, answers_skip plain_of s _⟩
  | seReg x y => exact .inl ⟨_, rfl, answers_skip plain_of s _⟩
  | ldImm x kk => exact answers_regs plain_of s _ s.draws
  | addImm x kk => exact answers_regs plain_of s _ s.draws
  | ldReg x y => exact answers_regs plain_of s _ s.draws
  | orReg x y => exact answers_regs plain_of s _ s.draws
  | andReg x y => exact answers_regs plain_of s _ s.draws
  | xorReg x y => exact answers_regs plain_of s _ s.draws
  | addReg x y => exact answers_regs plain_of s _ s.draws
  | sub x y => exact answers_regs plain_of s _ s.draws
  | shr x y => exact answers_regs plain_of s _ s.draws
  | subn x y => exact answers_regs plain_of s _ s.draws
  | shl x y => exact answers_regs plain_of s _ s.draws
  | sneReg x y => exact .inl ⟨_, rfl, answers_skip plain_of s _⟩
  | ldI n => exact answers_index plain_of s _ (.inl ⟨n, rfl⟩)
  | jpV0 n =>
    refine .inl ⟨_, rfl, completes_of_regs s.v s.i (zextByte (s.readV 0) + zextAddr n) s.draws plain_of (.inl rfl)
      (.inl ?_)⟩
    rw [toNat_jpV0_target]; omega
  | rnd x kk => exact answers_regs plain_of s _ (s.draws + 1)
  | drw x y n =>
    exact answers_guardRange (completes_of_fb _ _ (.inr ⟨x, y, n, rfl⟩)) fun h₁ h₂ =>
      .inr (.inr (.inr ⟨rfl, rfl, x, .inr (.inr ⟨y, n, rfl, by omega, h₂⟩)⟩))
  | skp x =>
    exact answers_guardKey (answers_skip plain_of s _) fun h => .inr (.inr (.inl ⟨rfl, rfl, x, .inl rfl, h⟩))
  | sknp x =>
    exact answers_guardKey (answers_skip plain_of s _) fun h => .inr (.inr (.inl ⟨rfl, rfl, x, .inr rfl, h⟩))
  | ldVxDt x => exact answers_regs plain_of s _ s.draws
  | ldVxK x =>
    show Answers _ s (execLdVxK x s)
    unfold execLdVxK
    split
    · exact answers_regs plain_of s _ s.draws
    · exact .inl ⟨_, rfl, completes_of_regs s.v s.i s.pc s.draws plain_of (.inl rfl) (.inr (.inl rfl))⟩
  | ldDtVx x => exact .inl ⟨_, rfl, completes_of_timers _ s.st (by simp) (.inr ⟨x, rfl, rfl⟩) (.inl ⟨rfl, by simp⟩)⟩
  | ldStVx x => exact .inl ⟨_, rfl, completes_of_timers s.dt _ (by simp) (.inl ⟨rfl, by simp⟩) (.inr ⟨x, rfl, rfl⟩)⟩
  | addI x => exact answers_index plain_of s _ (.inr (.inl ⟨x, rfl⟩))
  | ldF x => exact answers_index plain_of s _ (.inr (.inr ⟨x, rfl⟩))
  | ldB x =>
    exact answers_guardRange
      (completes_of_mem _ plain_of fun a h₁ h₂ => .inl ⟨x, rfl, h₁, by simp at h₂; omega⟩)
      fun _ h => .inr (.inr (.inr ⟨rfl, rfl, x, .inl ⟨rfl, h⟩⟩))
  | storeRegs x =>
    exact answers_guardRange
      (completes_of_mem _ plain_of fun a h₁ h₂ => .inr ⟨x, rfl, h₁, by simp at h₂; omega⟩)
      fun _ h => .inr (.inr (.inr ⟨rfl, rfl, x, .inr (.inl ⟨.inl rfl, h⟩)⟩))
  | loadRegs x =>
    exact answers_guardRange (completes_setV plain_of s (s.loadedRegs x))
      fun _ h => .inr (.inr (.inr ⟨rfl, rfl, x, .inr (.inl ⟨.inr rfl, h⟩)⟩))

/-- Two instructions the next step executes are one. -/
theorem executes_unique {s : State} {i j : Instr} (hi : Executes s i) (hj : Executes s j) : i = j :=
  Option.some.inj (hi.2.2.symm.trans hj.2.2)

/-- What a step that answers `t` did: nothing (halted), a fetch fault, a decode error, an instruction that completed, or an
instruction that raised its own fault. -/
theorem step_inversion {s t : State} (h : step s = .next t) :
    (s.halted = true ∧ t = s) ∨
    (s.halted = false ∧ 0xFFF ≤ s.pc.toNat ∧ t = s.begun.raiseFault .memoryFault none s.begun.fetchFaultAddr) ∨
    (s.halted = false ∧ s.pc.toNat < 0xFFF ∧ decode s.fetchOp = none ∧
      t = s.begun.raiseFault .decodeError (some s.fetchOp) 0) ∨
    (∃ i, Executes s i ∧ Completes i s.begun t) ∨
    ∃ i c addr, Executes s i ∧ Faults i s.begun c addr ∧ t = s.begun.raiseFault c (some (encode i)) addr := by
  rcases step_cases s with ⟨a, b⟩ | ⟨a, b, c⟩ | ⟨a, b, c, d⟩ | ⟨i, a, b⟩
  · rw [b] at h; injection h with h; exact .inl ⟨a, h.symm⟩
  · rw [c] at h; injection h with h; exact .inr (.inl ⟨a, by omega, h.symm⟩)
  · rw [d] at h; injection h with h; exact .inr (.inr (.inl ⟨a, by omega, c, h.symm⟩))
  · rw [b] at h
    rcases exec_answers i s.begun with ⟨u, e, k⟩ | ⟨c, addr, e, k⟩
    · rw [e] at h; injection h with h; subst h; exact .inr (.inr (.inr (.inl ⟨i, a, k⟩)))
    · rw [e] at h; injection h with h; exact .inr (.inr (.inr (.inr ⟨i, c, addr, a, k, h.symm⟩)))

end Sys2Proof.Machine
end

