-- ==== Sys2Proof/Laws/PerInstr.lean ====
section
/-! SUPPORT. The per-instruction family TableRow: every instruction's word is selected by the row of the opcode table that
has its mnemonic and its format (30_encoding.md R82, R91, R93). -/

namespace Sys2Proof.Laws.TableRow

/-- The instruction's row of the table: its mnemonic, its format, and a pattern its word matches. -/
def Statement (i : Instr) : Prop :=
  ∃ r ∈ opcodeTable, r.mnemonic = i.mnemonic ∧ r.format = i.format ∧ r.selects (encode i) = true

/-- Masking a word with bits, as a fact about each bit. -/
theorem masked_eq {op m p : Word} (h : ∀ j : Fin 16, (op.getLsbD j && m.getLsbD j) = p.getLsbD j) : op &&& m = p :=
  BitVec.eq_of_getLsbD_eq fun j hj => by rw [BitVec.getLsbD_and]; exact h ⟨j, hj⟩

theorem bit_formatA (h : Nibble) (nnn : Addr12) (j : Nat) :
    (formatA h nnn).getLsbD j = if j < 12 then nnn.getLsbD j else h.getLsbD (j - 12) := by
  simp only [formatA]
  exact BitVec.getLsbD_append

theorem bit_formatXK (h x : Nibble) (kk : Byte) (j : Nat) :
    (formatXK h x kk).getLsbD j =
      if j < 8 then kk.getLsbD j else if j - 8 < 4 then x.getLsbD (j - 8) else h.getLsbD (j - 8 - 4) := by
  rw [← show (h ++ x).getLsbD (j - 8) = _ from BitVec.getLsbD_append]
  exact BitVec.getLsbD_append

theorem bit_formatXYN (h x y n : Nibble) (j : Nat) :
    (formatXYN h x y n).getLsbD j =
      if j < 4 then n.getLsbD j else if j - 4 < 4 then y.getLsbD (j - 4)
      else if j - 4 - 4 < 4 then x.getLsbD (j - 4 - 4) else h.getLsbD (j - 4 - 4 - 4) := by
  rw [← show (h ++ x).getLsbD (j - 4 - 4) = _ from BitVec.getLsbD_append,
    ← show (h ++ x ++ y).getLsbD (j - 4) = _ from BitVec.getLsbD_append]
  exact BitVec.getLsbD_append

/-- The mask 0xF000 leaves the major opcode of format A. -/
theorem select_formatA (h : Nibble) (nnn : Addr12) : formatA h nnn &&& 0xF000 = formatA h 0 :=
  masked_eq fun j => by
    rw [bit_formatA, bit_formatA]
    fin_cases j <;> simp

/-- The mask 0xF000 leaves the major opcode of format XK. -/
theorem select_formatXK (h x : Nibble) (kk : Byte) : formatXK h x kk &&& 0xF000 = formatXK h 0 0 :=
  masked_eq fun j => by
    rw [bit_formatXK, bit_formatXK]
    fin_cases j <;> simp

/-- The mask 0xF0FF leaves the major opcode and the sub-opcode of format X. -/
theorem select_formatX (h x : Nibble) (kk : Byte) : formatXK h x kk &&& 0xF0FF = formatXK h 0 kk :=
  masked_eq fun j => by
    rw [bit_formatXK, bit_formatXK]
    fin_cases j <;> simp

/-- The mask 0xF00F leaves the major opcode and the sub-opcode of format XY. -/
theorem select_formatXY (h x y n : Nibble) : formatXYN h x y n &&& 0xF00F = formatXYN h 0 0 n :=
  masked_eq fun j => by
    rw [bit_formatXYN, bit_formatXYN]
    fin_cases j <;> simp

/-- The mask 0xF000 leaves the major opcode of format XYN. -/
theorem select_formatXYN (h x y n : Nibble) : formatXYN h x y n &&& 0xF000 = formatXYN h 0 0 0 :=
  masked_eq fun j => by
    rw [bit_formatXYN, bit_formatXYN]
    fin_cases j <;> simp

/-- The statement from the row's place in the table and the masked word. -/
theorem of_row {i : Instr} {r : Row} (k : Nat) (hk : opcodeTable[k]? = some r) (hm : r.mnemonic = i.mnemonic)
    (hf : r.format = i.format) (hs : encode i &&& r.mask = r.pattern) : Statement i :=
  ⟨r, List.mem_of_getElem? hk, hm, hf, decide_eq_true hs⟩

theorem cls : Statement (.cls) := of_row 0 rfl rfl rfl rfl

theorem ret : Statement (.ret) := of_row 1 rfl rfl rfl rfl

theorem jp (nnn : Addr12) : Statement (.jp nnn) := of_row 2 rfl rfl rfl (select_formatA 0x1 nnn)

theorem call (nnn : Addr12) : Statement (.call nnn) := of_row 3 rfl rfl rfl (select_formatA 0x2 nnn)

theorem seImm (x : Nibble) (kk : Byte) : Statement (.seImm x kk) := of_row 4 rfl rfl rfl (select_formatXK 0x3 x kk)

theorem sneImm (x : Nibble) (kk : Byte) : Statement (.sneImm x kk) := of_row 5 rfl rfl rfl (select_formatXK 0x4 x kk)

theorem seReg (x y : Nibble) : Statement (.seReg x y) := of_row 6 rfl rfl rfl (select_formatXY 0x5 x y 0x0)

theorem ldImm (x : Nibble) (kk : Byte) : Statement (.ldImm x kk) := of_row 7 rfl rfl rfl (select_formatXK 0x6 x kk)

theorem addImm (x : Nibble) (kk : Byte) : Statement (.addImm x kk) := of_row 8 rfl rfl rfl (select_formatXK 0x7 x kk)

theorem ldReg (x y : Nibble) : Statement (.ldReg x y) := of_row 9 rfl rfl rfl (select_formatXY 0x8 x y 0x0)

theorem orReg (x y : Nibble) : Statement (.orReg x y) := of_row 10 rfl rfl rfl (select_formatXY 0x8 x y 0x1)

theorem andReg (x y : Nibble) : Statement (.andReg x y) := of_row 11 rfl rfl rfl (select_formatXY 0x8 x y 0x2)

theorem xorReg (x y : Nibble) : Statement (.xorReg x y) := of_row 12 rfl rfl rfl (select_formatXY 0x8 x y 0x3)

theorem addReg (x y : Nibble) : Statement (.addReg x y) := of_row 13 rfl rfl rfl (select_formatXY 0x8 x y 0x4)

theorem sub (x y : Nibble) : Statement (.sub x y) := of_row 14 rfl rfl rfl (select_formatXY 0x8 x y 0x5)

theorem shr (x y : Nibble) : Statement (.shr x y) := of_row 15 rfl rfl rfl (select_formatXY 0x8 x y 0x6)

theorem subn (x y : Nibble) : Statement (.subn x y) := of_row 16 rfl rfl rfl (select_formatXY 0x8 x y 0x7)

theorem shl (x y : Nibble) : Statement (.shl x y) := of_row 17 rfl rfl rfl (select_formatXY 0x8 x y 0xE)

theorem sneReg (x y : Nibble) : Statement (.sneReg x y) := of_row 18 rfl rfl rfl (select_formatXY 0x9 x y 0x0)

theorem ldI (nnn : Addr12) : Statement (.ldI nnn) := of_row 19 rfl rfl rfl (select_formatA 0xA nnn)

theorem jpV0 (nnn : Addr12) : Statement (.jpV0 nnn) := of_row 20 rfl rfl rfl (select_formatA 0xB nnn)

theorem rnd (x : Nibble) (kk : Byte) : Statement (.rnd x kk) := of_row 21 rfl rfl rfl (select_formatXK 0xC x kk)

theorem drw (x y n : Nibble) : Statement (.drw x y n) := of_row 22 rfl rfl rfl (select_formatXYN 0xD x y n)

theorem skp (x : Nibble) : Statement (.skp x) := of_row 23 rfl rfl rfl (select_formatX 0xE x 0x9E)

theorem sknp (x : Nibble) : Statement (.sknp x) := of_row 24 rfl rfl rfl (select_formatX 0xE x 0xA1)

theorem ldVxDt (x : Nibble) : Statement (.ldVxDt x) := of_row 25 rfl rfl rfl (select_formatX 0xF x 0x07)

theorem ldVxK (x : Nibble) : Statement (.ldVxK x) := of_row 26 rfl rfl rfl (select_formatX 0xF x 0x0A)

theorem ldDtVx (x : Nibble) : Statement (.ldDtVx x) := of_row 27 rfl rfl rfl (select_formatX 0xF x 0x15)

theorem ldStVx (x : Nibble) : Statement (.ldStVx x) := of_row 28 rfl rfl rfl (select_formatX 0xF x 0x18)

theorem addI (x : Nibble) : Statement (.addI x) := of_row 29 rfl rfl rfl (select_formatX 0xF x 0x1E)

theorem ldF (x : Nibble) : Statement (.ldF x) := of_row 30 rfl rfl rfl (select_formatX 0xF x 0x29)

theorem ldB (x : Nibble) : Statement (.ldB x) := of_row 31 rfl rfl rfl (select_formatX 0xF x 0x33)

theorem storeRegs (x : Nibble) : Statement (.storeRegs x) := of_row 32 rfl rfl rfl (select_formatX 0xF x 0x55)

theorem loadRegs (x : Nibble) : Statement (.loadRegs x) := of_row 33 rfl rfl rfl (select_formatX 0xF x 0x65)

end Sys2Proof.Laws.TableRow
end

