-- ==== Sys2Proof/Tests/Slice0.lean ====
section
/-! SUPPORT. The model's own tests. The expected results are the vectors of 95_test_vectors.md (their ids stand in the
comments) or are worked out by hand from the rules; none is the model's own answer. After them the witnesses: for every
statement with hypotheses, and for each clause of one, a state and operands that meet it, at a boundary where there is one. -/

namespace Sys2Proof.Tests

open Machine

/-! ## Helpers -/

/-- One step from `s` with the word `w` placed at PC. -/
def after (s : State) (w : Nat) : State :=
  match step (s.withFetchWord 16 w) with
  | .next t => t
  | .fault _ => s
  | .refused _ => s

/-- The reset state with two registers set. -/
def regs (x : Nibble) (a : Byte) (y : Nibble) (b : Byte) : State := (State.reset.writeV x a).writeV y b

/-- The record of a fault: HALTED, CAUSE, OPV, FAULT_PC, FAULT_OPCODE, FAULT_ADDR. -/
def record (s : State) : Bool × Cause × Bool × Word × Word × Word :=
  (s.halted, s.cause, s.opv, s.faultPc, s.faultOpcode, s.faultAddr)

/-- The reset state with SP entries on the stack. -/
def withSp (n : Fin 17) : State := { State.reset with sp := n }

/-! ## Well-formedness: one ill-formed term for each check -/

theorem test_wf_accepts : RawOperands.wellFormed { x := 15, y := 15, n := 15, kk := 255, nnn := 4095 } = true := by decide

theorem test_wf_refuses_x : RawOperands.wellFormed { x := 16 } = false := by decide

theorem test_wf_refuses_y : RawOperands.wellFormed { y := 16 } = false := by decide

theorem test_wf_refuses_n : RawOperands.wellFormed { n := 16 } = false := by decide

theorem test_wf_refuses_kk : RawOperands.wellFormed { kk := 256 } = false := by decide

theorem test_wf_refuses_nnn : RawOperands.wellFormed { nnn := 4096 } = false := by decide

/-- R3 and R4 of 95_test_vectors.md: 3584 bytes are accepted, 3585 are not. -/
theorem test_wf_rom_length (b : Byte) :
    romWellFormed (List.replicate 3584 b) = true ∧ romWellFormed (List.replicate 3585 b) = false := by
  simp only [romWellFormed, List.length_replicate]
  decide

/-! ## Decode: a word of every constructor, written bit by bit from 30_encoding.md R82 -/

theorem test_decode_w : decode 0b0000000011100000 = some .cls ∧ decode 0b0000000011101110 = some .ret := by decide

theorem test_decode_a :
    decode 0b0001001000110100 = some (.jp 0x234) ∧ decode 0b0010001100000001 = some (.call 0x301) ∧
    decode 0b1010000100100011 = some (.ldI 0x123) ∧ decode 0b1011111100000001 = some (.jpV0 0xF01) := by decide

theorem test_decode_xk :
    decode 0b0011001101000010 = some (.seImm 0x3 0x42) ∧ decode 0b0100001101000001 = some (.sneImm 0x3 0x41) ∧
    decode 0b0110101000101011 = some (.ldImm 0xA 0x2B) ∧ decode 0b0111000010000001 = some (.addImm 0x0 0x81) ∧
    decode 0b1100001100001111 = some (.rnd 0x3 0x0F) := by decide

theorem test_decode_xy :
    decode 0b0101000100100000 = some (.seReg 0x1 0x2) ∧ decode 0b1001000100100000 = some (.sneReg 0x1 0x2) ∧
    decode 0b1000000100100000 = some (.ldReg 0x1 0x2) ∧ decode 0b1000001100010001 = some (.orReg 0x3 0x1) ∧
    decode 0b1000010000010010 = some (.andReg 0x4 0x1) ∧ decode 0b1000010100010011 = some (.xorReg 0x5 0x1) := by decide

theorem test_decode_flagged :
    decode 0b1000111100010100 = some (.addReg 0xF 0x1) ∧ decode 0b1000000111110101 = some (.sub 0x1 0xF) ∧
    decode 0b1000000100000110 = some (.shr 0x1 0x0) ∧ decode 0b1000000100100111 = some (.subn 0x1 0x2) ∧
    decode 0b1000001000011110 = some (.shl 0x2 0x1) := by decide

theorem test_decode_xyn : decode 0b1101001000111111 = some (.drw 0x2 0x3 0xF) := by decide

theorem test_decode_x_key :
    decode 0b1110010110011110 = some (.skp 0x5) ∧ decode 0b1110011010100001 = some (.sknp 0x6) ∧
    decode 0b1111001100001010 = some (.ldVxK 0x3) := by decide

theorem test_decode_x_timer :
    decode 0b1111010000000111 = some (.ldVxDt 0x4) ∧ decode 0b1111010000010101 = some (.ldDtVx 0x4) ∧
    decode 0b1111000100011000 = some (.ldStVx 0x1) := by decide

theorem test_decode_x_index :
    decode 0b1111000100011110 = some (.addI 0x1) ∧ decode 0b1111101000101001 = some (.ldF 0xA) ∧
    decode 0b1111101000110011 = some (.ldB 0xA) ∧ decode 0b1111001101010101 = some (.storeRegs 0x3) ∧
    decode 0b1111001001100101 = some (.loadRegs 0x2) := by decide

/-- Words of R90 that are illegal, one beside each legal neighbour. -/
theorem test_decode_illegal :
    decode 0x0000 = none ∧ decode 0x00E1 = none ∧ decode 0x01E0 = none ∧ decode 0x5121 = none ∧ decode 0x9121 = none ∧
    decode 0x8128 = none ∧ decode 0x812D = none ∧ decode 0x812F = none ∧ decode 0xE59F = none ∧ decode 0xE5A0 = none ∧
    decode 0xF330 = none ∧ decode 0xF375 = none ∧ decode 0xF385 = none := by decide

/-- S11: the high byte comes first in memory; too few bytes and an illegal word are refused by name. -/
theorem test_decode_bytes :
    decodeBytes [0x12, 0x34, 0x99] = .ok (.jp 0x234, [0x99]) ∧ encodeBytes (.jp 0x234) = [0x12, 0x34] ∧
    decodeTableWord 16 0x1234 = some (.jp 0x234) ∧ decodeTableWord 16 0x5121 = none := by
  refine ⟨rfl, rfl, rfl, rfl⟩

/-- R81: 34 rows. -/
theorem test_table_size : opcodeTable.length = 34 := by decide

/-! ## Control flow -/

/-- C1. -/
theorem test_jp : (after State.reset 0x1ABC).pc = 0xABC := by decide

/-- C2. -/
theorem test_call :
    (after State.reset 0x2400).stack[0] = 0x200 ∧ (after State.reset 0x2400).sp = 1 ∧ (after State.reset 0x2400).pc = 0x400 := by
  decide

/-- C3. -/
theorem test_call_overflow :
    record (after (withSp 16) 0x2400) = (true, .stackOverflow, true, 0x200, 0x2400, 0) ∧
    (after (withSp 16) 0x2400).pc = 0x200 ∧ (after (withSp 16) 0x2400).sp = 16 := by decide

/-- C4. -/
theorem test_ret :
    (after { withSp 1 with stack := State.reset.stack.set 0 0x204 } 0x00EE).pc = 0x206 ∧
    (after { withSp 1 with stack := State.reset.stack.set 0 0x204 } 0x00EE).sp = 0 := by decide

/-- C5. -/
theorem test_ret_underflow : record (after State.reset 0x00EE) = (true, .stackUnderflow, true, 0x200, 0x00EE, 0) := by decide

/-- C6 and C7. -/
theorem test_jpV0 :
    (after (State.reset.writeV 0 0x10) 0xB300).pc = 0x310 ∧ (after (State.reset.writeV 0 0xFF) 0xBFFF).pc = 0x10FE := by decide

/-- C10: an odd PC is legal. -/
theorem test_odd_pc : (after (State.reset.setPc 0x201) 0x1300).pc = 0x300 := by decide

/-! ## Skips -/

/-- K1 and K2. -/
theorem test_seImm :
    (after (State.reset.writeV 2 0x42) 0x3242).pc = 0x204 ∧ (after (State.reset.writeV 2 0x42) 0x3243).pc = 0x202 := by decide

/-- K3 and K4. -/
theorem test_sneImm :
    (after (State.reset.writeV 2 0x42) 0x4242).pc = 0x202 ∧ (after (State.reset.writeV 2 0x42) 0x4243).pc = 0x204 := by decide

/-- K5, and unequal registers. -/
theorem test_seReg : (after (regs 1 7 2 7) 0x5120).pc = 0x204 ∧ (after (regs 1 7 2 8) 0x5120).pc = 0x202 := by decide

/-- K7 and K8. -/
theorem test_sneReg : (after (regs 1 7 2 8) 0x9120).pc = 0x204 ∧ (after (regs 1 7 2 7) 0x9120).pc = 0x202 := by decide

/-! ## Loads and arithmetic -/

/-- A1, and S2 for VF. -/
theorem test_ldImm : (after State.reset 0x6AFF).readV 0xA = 0xFF ∧ (after State.reset 0x6F7B).readV 0xF = 0x7B := by decide

/-- A2. -/
theorem test_addImm :
    (after (regs 0xA 0x01 0xF 0x55) 0x7AFF).readV 0xA = 0 ∧ (after (regs 0xA 0x01 0xF 0x55) 0x7AFF).readV 0xF = 0x55 := by decide

/-- A3. -/
theorem test_ldReg : (after (State.reset.writeV 2 7) 0x8120).readV 1 = 7 := by decide

/-- A4. -/
theorem test_orReg :
    (after ((regs 1 0xF0 2 0x0F).writeV 0xF 0x55) 0x8121).readV 1 = 0xFF ∧
    (after ((regs 1 0xF0 2 0x0F).writeV 0xF 0x55) 0x8121).readV 0xF = 0x55 := by decide

/-- A5. -/
theorem test_andReg : (after (regs 1 0xF0 2 0x3C) 0x8122).readV 1 = 0x30 := by decide

/-- A6. -/
theorem test_xorReg : (after (regs 1 0xF0 2 0xFF) 0x8123).readV 1 = 0x0F := by decide

/-- A7. -/
theorem test_addReg :
    (after (regs 1 0xFF 2 0x01) 0x8124).readV 1 = 0 ∧ (after (regs 1 0xFF 2 0x01) 0x8124).readV 0xF = 1 := by decide

/-- A10 and A13: VF as destination and as source. -/
theorem test_addReg_vf :
    (after (regs 0xF 0x01 1 0x02) 0x8F14).readV 0xF = 0 ∧ (after (regs 1 0xFF 0xF 0x01) 0x81F4).readV 0xF = 1 := by decide

/-- A15. -/
theorem test_sub : (after (regs 1 3 2 5) 0x8125).readV 1 = 0xFE ∧ (after (regs 1 3 2 5) 0x8125).readV 0xF = 0 := by decide

/-- A16 (strict) and A17. -/
theorem test_sub_flag : (after (regs 1 5 2 5) 0x8125).readV 0xF = 0 ∧ (after (regs 0xF 5 1 3) 0x8F15).readV 0xF = 1 := by decide

/-- A18. -/
theorem test_shr : (after (regs 1 5 2 0) 0x8126).readV 1 = 2 ∧ (after (regs 1 5 2 0) 0x8126).readV 0xF = 1 := by decide

/-- A19. -/
theorem test_shr_vy :
    (after ((regs 1 0xFF 2 4).setShiftSource .vy) 0x8126).readV 1 = 2 ∧
    (after ((regs 1 0xFF 2 4).setShiftSource .vy) 0x8126).readV 0xF = 0 := by decide

/-- A22. -/
theorem test_subn : (after (regs 1 3 2 5) 0x8127).readV 1 = 2 ∧ (after (regs 1 3 2 5) 0x8127).readV 0xF = 1 := by decide

/-- A23 and A24 (strict). -/
theorem test_subn_flag : (after (regs 1 5 2 3) 0x8127).readV 1 = 0xFE ∧ (after (regs 1 5 2 5) 0x8127).readV 0xF = 0 := by decide

/-- A25. -/
theorem test_shl : (after (regs 1 0x81 2 0) 0x812E).readV 1 = 2 ∧ (after (regs 1 0x81 2 0) 0x812E).readV 0xF = 1 := by decide

/-- A26. -/
theorem test_shl_vy :
    (after ((regs 1 1 2 0x40).setShiftSource .vy) 0x812E).readV 1 = 0x80 ∧
    (after ((regs 1 1 2 0x40).setShiftSource .vy) 0x812E).readV 0xF = 0 := by decide

/-- A28 for whatever the draw is: the low nibble of it. -/
theorem test_rnd_masks : (after State.reset 0xC10F).readV 1 = Config.randomByte 0 &&& 0x0F := rfl

/-- A29: kk = 0 gives 0. -/
theorem test_rnd_zero : (after State.reset 0xC100).readV 1 = 0 := by
  show Config.randomByte 0 &&& 0 = 0
  simp

/-! ## Index and memory -/

/-- M1. -/
theorem test_ldI : (after State.reset 0xA123).i = 0x123 := by decide

/-- M3. -/
theorem test_addI : (after ((State.reset.writeV 1 1).setI 0xFFFF) 0xF11E).i = 0 := by decide

/-- M2. -/
theorem test_addI_no_flag :
    (after ((regs 1 1 0xF 0x77).setI 0x0FFF) 0xF11E).i = 0x1000 ∧
    (after ((regs 1 1 0xF 0x77).setI 0x0FFF) 0xF11E).readV 0xF = 0x77 := by decide

/-- M4 and M5. -/
theorem test_ldF :
    (after (State.reset.writeV 1 0x0A) 0xF129).i = 0x032 ∧ (after (State.reset.writeV 1 0xFF) 0xF129).i = 0x4FB := by decide

/-- S5. -/
theorem test_ldB :
    (after ((State.reset.writeV 1 0xEA).setI 0x300) 0xF133).readByte 0x300 = 2 ∧
    (after ((State.reset.writeV 1 0xEA).setI 0x300) 0xF133).readByte 0x301 = 3 ∧
    (after ((State.reset.writeV 1 0xEA).setI 0x300) 0xF133).readByte 0x302 = 4 := by decide

/-- M9 and M10. -/
theorem test_ldB_range :
    record (after ((State.reset.writeV 1 1).setI 0xFFE) 0xF133) = (true, .memoryFault, true, 0x200, 0xF133, 0x1000) ∧
    (after ((State.reset.writeV 1 123).setI 0xFFD) 0xF133).readByte 0xFFF = 3 := by decide

/-- M11. -/
theorem test_storeRegs :
    Memory.readList (after (((regs 0 1 1 2).writeV 2 3).writeV 3 4 |>.setI 0x300) 0xF355).mem 0x300 5 = [1, 2, 3, 4, 0] := by
  decide

/-- M12, M13 and M14. -/
theorem test_storeRegs_range :
    (after (State.reset.setI 0xFFD) 0xF355).faultAddr = 0x1000 ∧ (after (State.reset.setI 0xFFC) 0xF355).halted = false ∧
    (after (State.reset.setI 0x1005) 0xF055).faultAddr = 0x1005 := by decide

/-- M15. -/
theorem test_loadRegs :
    (after { State.reset with i := 0x300, mem := [(0x300, 9), (0x301, 8), (0x302, 7), (0x303, 6)] } 0xF265).v.toList.take 4 =
      [9, 8, 7, 0] := by decide

/-- M16: the first 16 bytes of the default FONT. -/
theorem test_loadRegs_font :
    (after State.reset 0xFF65).v.toList =
      [0xF0, 0x90, 0x90, 0x90, 0xF0, 0x20, 0x60, 0x20, 0x20, 0x70, 0xF0, 0x10, 0xF0, 0x80, 0xF0, 0xF0] := by decide

/-- R272: glyph F is the last of the font, and the byte after it is zero. -/
theorem test_font_end : Memory.readList State.reset.mem 0x4B 6 = [0xF0, 0x80, 0xF0, 0x80, 0x80, 0x00] := by decide

/-- Writing back the reset image's byte removes the entry: equal memories are equal data. -/
theorem test_memory_canonical :
    Memory.write (Memory.write [] 0x300 5) 0x300 0 = [] ∧ Memory.write [(0x10, 1)] 0x300 5 = [(0x10, 1), (0x300, 5)] ∧
    Memory.wf [(0x10, 1), (0x300, 5)] = true ∧ Memory.wf [(0x300, 5), (0x10, 1)] = false ∧ Memory.wf [(0x300, 0)] = false ∧
    Memory.wf [(0x1000, 5)] = false := by decide

/-! ## Display -/

/-- D1. -/
theorem test_cls :
    pixel (after { State.reset with fb := (clearFb.set 0 0x80).set 255 0x01 } 0x00E0).fb 63 31 = false ∧
    (after { State.reset with fb := (clearFb.set 0 0x80).set 255 0x01 } 0x00E0).draw = true := by decide

/-- D2: the packed bytes of glyph 0 at (0, 0). -/
theorem test_drw :
    (after State.reset 0xD005).readFbp 0 = 0xF0 ∧ (after State.reset 0xD005).readFbp 8 = 0x90 ∧
    (after State.reset 0xD005).readFbp 32 = 0xF0 ∧ (after State.reset 0xD005).readV 0xF = 0 ∧
    (after State.reset 0xD005).draw = true := by decide

/-- D3, row 0 of it: a glyph row F0 two columns to the right of one already drawn collides; D4: clipped at the right edge. -/
theorem test_drw_collides_and_clips :
    (after { (State.reset.writeV 0 2) with fb := clearFb.set 0 0xF0 } 0xD011).readFbp 0 = 0xCC ∧
    (after { (State.reset.writeV 0 2) with fb := clearFb.set 0 0xF0 } 0xD011).readV 0xF = 1 ∧
    (after (State.reset.writeV 0 62) 0xD011).readFbp 7 = 0x03 ∧ (after (State.reset.writeV 0 62) 0xD011).readFbp 0 = 0 := by decide

/-- D5, D6 and D11. -/
theorem test_drw_off_grid :
    (after (regs 0 64 0xF 1) 0xD011).readV 0xF = 0 ∧ (after (State.reset.writeV 1 30) 0xD015).readFbp 248 = 0x90 ∧
    (after (State.reset.writeV 0xF 8) 0xDF05).readFbp 1 = 0xF0 := by decide

/-- D8 and D10. -/
theorem test_drw_range :
    record (after (State.reset.setI 0xFFE) 0xD003) = (true, .memoryFault, true, 0x200, 0xD003, 0x1000) ∧
    (after (State.reset.setI 0xFFE) 0xD003).draw = false ∧ (after (State.reset.setI 0x2000) 0xD000).draw = true := by decide

/-! ## Keypad and timers -/

/-- T1 and T2. -/
theorem test_skp :
    (after ((State.reset.writeV 5 3).keyEvent 3 .pressed) 0xE59E).pc = 0x204 ∧
    (after (State.reset.writeV 5 3) 0xE59E).pc = 0x202 := by decide

/-- T5. -/
theorem test_skp_fault :
    record (after (State.reset.writeV 5 0x10) 0xE59E) = (true, .keyIndexFault, true, 0x200, 0xE59E, 0) := by decide

/-- T3 and T4. -/
theorem test_sknp :
    (after (State.reset.writeV 5 3) 0xE5A1).pc = 0x204 ∧
    (after ((State.reset.writeV 5 3).keyEvent 3 .pressed) 0xE5A1).pc = 0x202 := by decide

/-- T6. -/
theorem test_sknp_fault :
    record (after (State.reset.writeV 5 0xFF) 0xE5A1) = (true, .keyIndexFault, true, 0x200, 0xE5A1, 0) := by decide

/-- T7. -/
theorem test_ldVxK_waits :
    (after (State.reset.setDt 5) 0xF30A).pc = 0x200 ∧ (after (State.reset.setDt 5) 0xF30A).dt = 4 := by decide

/-- T8. -/
theorem test_ldVxK_lowest :
    (after ((State.reset.keyEvent 9 .pressed).keyEvent 4 .pressed) 0xF30A).readV 3 = 4 ∧
    (after ((State.reset.keyEvent 9 .pressed).keyEvent 4 .pressed) 0xF30A).pc = 0x202 := by decide

/-- T9 and T11. -/
theorem test_ldVxDt :
    (after (State.reset.setDt 0x10) 0xF407).readV 4 = 0x0F ∧ (after State.reset 0xF407).readV 4 = 0 := by decide

/-- T12. -/
theorem test_ldDtVx : (after (State.reset.writeV 4 0x3C) 0xF415).dt = 0x3C := by decide

/-- T14. -/
theorem test_ldStVx_never_beeps :
    (after (State.reset.setSt 5) 0xF118).st = 0 ∧ (after (State.reset.setSt 5) 0xF118).beep = false := by decide

/-- T15. -/
theorem test_ldStVx_tick_beeps :
    (after ((State.reset.writeV 1 7).setSt 1) 0xF118).st = 7 ∧ (after ((State.reset.writeV 1 7).setSt 1) 0xF118).beep = true := by
  decide

/-! ## Cycle, faults, reset and load -/

/-- F1: the tick of a faulting step is kept. -/
theorem test_decode_error_keeps_the_tick :
    record (after ((State.reset.setDt 5).setSt 1) 0x0000) = (true, .decodeError, true, 0x200, 0x0000, 0) ∧
    (after ((State.reset.setDt 5).setSt 1) 0x0000).dt = 4 ∧ (after ((State.reset.setDt 5).setSt 1) 0x0000).beep = true := by decide

/-- C7 and C8, the step after: the fetch faults. -/
theorem test_fetch_fault :
    record (after (State.reset.setPc 0x10FE) 0) = (true, .memoryFault, false, 0x10FE, 0, 0x10FE) ∧
    record (after (State.reset.setPc 0xFFF) 0) = (true, .memoryFault, false, 0xFFF, 0, 0x1000) := by decide

/-- C9: the last address a word can be fetched from. -/
theorem test_fetch_last_word : (after (State.reset.setPc 0xFFE) 0x00E0).pc = 0x1000 := by decide

/-- F5: a key event reaches a halted core and leaves it halted. -/
theorem test_key_event_while_halted :
    ((after State.reset 0x0000).keyEvent 3 .pressed).key 3 = true ∧
    ((after State.reset 0x0000).keyEvent 3 .pressed).halted = true := by decide

/-- R1 and R2: a load of no bytes is a reset, whatever the state was; with the default FONT its memory is the reset memory. -/
theorem test_reset :
    ((after State.reset 0x0000).loadRom defaultFont []).2.halted = false ∧
    ((after State.reset 0x0000).loadRom defaultFont []).2.pc = 0x200 ∧
    (State.reset.hostReset defaultFont).mem = State.reset.mem := by decide +kernel

/-- R5: the bytes lie from 0x200, and the byte after them is zero. -/
theorem test_load_rom :
    Memory.readList (State.reset.loadRom defaultFont [0x12, 0x34, 0x56]).2.mem 0x200 4 = [0x12, 0x34, 0x56, 0x00] := by
  decide +kernel

/-- R4: too long a ROM changes nothing. -/
theorem test_load_error (s : State) (b : Byte) : s.loadRom defaultFont (List.replicate 3585 b) = (.loadError, s) := by
  rw [State.loadRom, (test_wf_rom_length b).2]
  rfl

/-! ## Witnesses -/

/-- A running core about to execute the word `w` at PC. -/
def loaded (s : State) (w : Nat) : State := s.withFetchWord 16 w

/-- A core that is halted by the decode error of the reset memory. -/
def stopped : State := State.reset.raiseFault .decodeError (some 0) 0

theorem witness_DecodedWordIsTheEncodedWord : decode 0xFFFF = none ∧ decode 0xDFFF = some (.drw 0xF 0xF 0xF) := by decide

/-- A legal word has its row; an illegal word has none. -/
theorem witness_TableSelectsExactlyDecodedWords :
    decode 0x8AB6 = some (.shr 0xA 0xB) ∧ (opcodeTable.filter fun r => r.selects 0x8AB6).map Row.mnemonic = ["SHR Vx, Vy"] ∧
    decode 0x5AB1 = none ∧ (opcodeTable.filter fun r => r.selects 0x5AB1) = [] := by decide

/-- Each clause, at its first and last illegal value, and a legal word of each bucket. -/
theorem witness_IllegalWordsAreExactlyTheListed :
    decode (0x0#4 ++ 0x0#4 ++ 0xE#4 ++ 0x1#4) = none ∧ decode (0x0#4 ++ 0x0#4 ++ 0xE#4 ++ 0xE#4) ≠ none ∧
    decode (0x5#4 ++ 0xF#4 ++ 0xF#4 ++ 0xF#4) = none ∧ decode (0x9#4 ++ 0x0#4 ++ 0x0#4 ++ 0x1#4) = none ∧
    decode (0x8#4 ++ 0x0#4 ++ 0x0#4 ++ 0x8#4) = none ∧ decode (0x8#4 ++ 0xF#4 ++ 0xF#4 ++ 0xF#4) = none ∧
    decode (0x8#4 ++ 0xF#4 ++ 0xF#4 ++ 0xE#4) ≠ none ∧ decode (0xE#4 ++ 0x0#4 ++ 0x9#4 ++ 0xD#4) = none ∧
    decode (0xF#4 ++ 0xF#4 ++ 0xF#4 ++ 0xF#4) = none ∧ decode (0xF#4 ++ 0x0#4 ++ 0x6#4 ++ 0x5#4) ≠ none := by decide

/-- `Executes` holds of the reset state with a word loaded, and at the last address a word can stand at. -/
theorem witness_StepRunsDecodedInstruction :
    Executes (loaded State.reset 0x00E0) .cls ∧ Executes (loaded (State.reset.setPc 0xFFE) 0x6A2B) (.ldImm 0xA 0x2B) :=
  ⟨⟨rfl, by decide, by decide⟩, ⟨rfl, by decide, by decide⟩⟩

theorem witness_HaltedStepChangesNothing : stopped.halted = true := rfl

theorem witness_FetchPastMemoryFaults :
    (State.reset.setPc 0xFFF).halted = false ∧ 0xFFF ≤ (State.reset.setPc 0xFFF).pc.toNat ∧
    0xFFF ≤ (State.reset.setPc 0x10FE).pc.toNat := by decide

theorem witness_IllegalWordRaisesDecodeError :
    State.reset.halted = false ∧ State.reset.pc.toNat + 1 ≤ 0xFFF ∧ decode (opcodeAt State.reset) = none ∧
    (State.reset.setPc 0xFFE).pc.toNat + 1 ≤ 0xFFF ∧ decode (opcodeAt (State.reset.setPc 0xFFE)) = none := by decide

/-- A step that draws, one whose tick beeps, and one of each of the two instructions that set DRAW. -/
theorem witness_DrawAndBeepArePulses :
    (loaded State.reset 0xD005).halted = false ∧ Executes (loaded State.reset 0xD005) (.drw 0 0 5) ∧
    Executes (loaded State.reset 0x00E0) .cls ∧ step (loaded State.reset 0xD005) = .next (after State.reset 0xD005) ∧
    (after State.reset 0xD005).halted = false ∧ (after (State.reset.setSt 1) 0x6000).beep = true ∧
    (after (State.reset.setSt 1) 0x6000).draw = false :=
  ⟨rfl, ⟨rfl, by decide, by decide⟩, ⟨rfl, by decide, by decide⟩, rfl, by decide, by decide, by decide⟩

theorem witness_TimersTickOncePerStep :
    (loaded State.reset 0xF415).halted = false ∧ step (loaded State.reset 0xF415) = .next (after State.reset 0xF415) ∧
    Executes (loaded State.reset 0xF415) (.ldDtVx 4) ∧ Executes (loaded State.reset 0xF118) (.ldStVx 1) ∧
    Executes (loaded State.reset 0xF407) (.ldVxDt 4) :=
  ⟨rfl, rfl, ⟨rfl, by decide, by decide⟩, ⟨rfl, by decide, by decide⟩, ⟨rfl, by decide, by decide⟩⟩

/-- A step that halts by a decode error, one by a range check, one by a fetch. -/
theorem witness_FaultsArePrecise :
    (loaded State.reset 0x0000).halted = false ∧ step (loaded State.reset 0x0000) = .next (after State.reset 0x0000) ∧
    (after State.reset 0x0000).halted = true ∧ (after (State.reset.setI 0xFFE) 0xF133).cause = .memoryFault ∧
    (after (State.reset.setI 0xFFE) 0xF133).opv = true ∧ (after (State.reset.setPc 0xFFF) 0).opv = false :=
  ⟨rfl, rfl, by decide, by decide, by decide, by decide⟩

/-- A step that raises a fault, with all the premises on it. -/
theorem witness_FaultCausesByInstruction_premises :
    (loaded (withSp 16) 0x2400).halted = false ∧ step (loaded (withSp 16) 0x2400) = .next (after (withSp 16) 0x2400) ∧
    (after (withSp 16) 0x2400).halted = true :=
  ⟨rfl, rfl, by decide⟩

/-- Every cause is raised by some step, and each check passes at the value beside the one it refuses. -/
theorem witness_FaultCausesByInstruction :
    (after (State.reset.setPc 0xFFF) 0).cause = .memoryFault ∧ (after State.reset 0x0000).cause = .decodeError ∧
    (after (withSp 16) 0x2400).cause = .stackOverflow ∧ (after (withSp 15) 0x2400).cause = .none ∧
    (after State.reset 0x00EE).cause = .stackUnderflow ∧ (after (withSp 1) 0x00EE).cause = .none ∧
    (after (State.reset.writeV 5 0x10) 0xE59E).cause = .keyIndexFault ∧
    (after (State.reset.writeV 5 0x0F) 0xE59E).cause = .none ∧
    (after (State.reset.setI 0xFFE) 0xF133).cause = .memoryFault ∧ (after (State.reset.setI 0xFFD) 0xF133).cause = .none := by
  decide

theorem witness_FaultCausesByInstruction_bulk :
    (after (State.reset.setI 0xFF1) 0xFF55).cause = .memoryFault ∧ (after (State.reset.setI 0xFF0) 0xFF55).cause = .none ∧
    (after (State.reset.setI 0x1000) 0xF065).cause = .memoryFault ∧ (after (State.reset.setI 0xFFF) 0xF065).cause = .none ∧
    (after (State.reset.setI 0x1000) 0xD001).cause = .memoryFault ∧ (after (State.reset.setI 0xFFF) 0xD001).cause = .none ∧
    (after (State.reset.setI 0xFFFF) 0xD000).cause = .none := by decide

theorem witness_StepsNeverWriteKeysOrConfig :
    step (loaded State.reset 0xF30A) = .next (after State.reset 0xF30A) := rfl

/-- A step that changes a named register, one that changes VF as a flag, and one that loads the last register of its range. -/
theorem witness_OnlyNamedRegistersAreWritten :
    step (loaded State.reset 0x6A2B) = .next (after State.reset 0x6A2B) ∧
    (after State.reset 0x6A2B).readV 0xA ≠ (loaded State.reset 0x6A2B).readV 0xA ∧
    (after (regs 1 255 2 1) 0x8124).readV 0xF ≠ (loaded (regs 1 255 2 1) 0x8124).readV 0xF ∧
    (after State.reset 0xF265).readV 2 ≠ (loaded State.reset 0xF265).readV 2 :=
  ⟨rfl, by decide, by decide, by decide⟩

/-- A CALL changes SP and its entry; a RET changes SP. -/
theorem witness_OnlyCallAndRetWriteTheStack :
    step (loaded State.reset 0x2400) = .next (after State.reset 0x2400) ∧
    (after State.reset 0x2400).sp ≠ (loaded State.reset 0x2400).sp ∧
    (after State.reset 0x2400).stack[(0 : Fin 16)] ≠ (loaded State.reset 0x2400).stack[(0 : Fin 16)] ∧
    (after (withSp 1) 0x00EE).sp ≠ (loaded (withSp 1) 0x00EE).sp :=
  ⟨rfl, by decide, by decide, by decide⟩

theorem witness_OnlyThreeInstructionsWriteI :
    step (loaded State.reset 0xA123) = .next (after State.reset 0xA123) ∧
    (after State.reset 0xA123).i ≠ (loaded State.reset 0xA123).i ∧
    (after (State.reset.writeV 1 1) 0xF11E).i ≠ (loaded (State.reset.writeV 1 1) 0xF11E).i ∧
    (after (State.reset.writeV 1 1) 0xF129).i ≠ (loaded (State.reset.writeV 1 1) 0xF129).i :=
  ⟨rfl, by decide, by decide, by decide⟩

/-- Fx33 changes the last byte of its range, and Fx55 the last of its own. -/
theorem witness_OnlyTwoInstructionsWriteMemory :
    step (loaded ((State.reset.writeV 1 9).setI 0x300) 0xF133) = .next (after ((State.reset.writeV 1 9).setI 0x300) 0xF133) ∧
    (after ((State.reset.writeV 1 9).setI 0x300) 0xF133).readByte 0x302 ≠
      (loaded ((State.reset.writeV 1 9).setI 0x300) 0xF133).readByte 0x302 ∧
    (after ((State.reset.writeV 1 9).setI 0xFFE) 0xF155).readByte 0xFFF ≠
      (loaded ((State.reset.writeV 1 9).setI 0xFFE) 0xF155).readByte 0xFFF :=
  ⟨rfl, by decide, by decide⟩

theorem witness_OnlyTwoInstructionsWritePixels :
    step (loaded State.reset 0xD005) = .next (after State.reset 0xD005) ∧
    pixel (after State.reset 0xD005).fb 0 0 ≠ pixel (loaded State.reset 0xD005).fb 0 0 ∧
    pixel (after { State.reset with fb := clearFb.set 255 0x01 } 0x00E0).fb 63 31 ≠
      pixel (loaded { State.reset with fb := clearFb.set 255 0x01 } 0x00E0).fb 63 31 :=
  ⟨rfl, by decide, by decide⟩

/-! The invariants hold at reset, after a step at the bound itself, and after a fault. -/

theorem witness_StepKeepsPcBounded :
    PcBounded (loaded State.reset 0x1FFF) ∧ step (loaded State.reset 0x1FFF) = .next (after State.reset 0x1FFF) ∧
    PcBounded (State.reset.setPc 0x10FE) ∧ PcBounded { State.reset with stack := State.reset.stack.set 15 0xFFE } :=
  ⟨⟨by decide, by decide⟩, rfl, ⟨by decide, by decide⟩, ⟨by decide, by decide⟩⟩

theorem witness_StepKeepsMemoryCanonical :
    MemoryCanonical (loaded (State.reset.setI 0xFFD) 0xF133) ∧
    step (loaded (State.reset.setI 0xFFD) 0xF133) = .next (after (State.reset.setI 0xFFD) 0xF133) :=
  ⟨by unfold MemoryCanonical; decide, rfl⟩

/-- A running state whose next step halts, and a halted one. -/
theorem witness_StepKeepsHaltRecordConsistent :
    HaltRecordConsistent State.reset ∧ HaltRecordConsistent stopped ∧ step State.reset = .next stopped := by
  refine ⟨?_, ?_, rfl⟩ <;> unfold HaltRecordConsistent <;> decide

theorem witness_ReachableStatesMeetTheInvariants (font : Font) :
    Reachable font ((State.reset.hostReset font).keyEvent 7 .pressed) :=
  .op _ (.keyEvent 7 .pressed) .reset

/-- At the last cell, and beside it. -/
theorem witness_ReadAfterWrite : Memory.wf [(0xFFE, 5)] = true ∧ (0xFFF : Nat) < 4096 := by decide

/-- Fx55 with x = 1, over the word at PC + 2; and at the top of memory, with PC + 2 = 0xFFE. -/
theorem witness_StoredCodeIsFetchedNext :
    MemoryCanonical (loaded (State.reset.setI 0x202) 0xF155) ∧ Executes (loaded (State.reset.setI 0x202) 0xF155) (.storeRegs 1) ∧
    1 ≤ (0x1 : Nibble).toNat ∧ (0x202 : Word).toNat + (0x1 : Nibble).toNat ≤ 0xFFF ∧
    (loaded (State.reset.setI 0x202) 0xF155).i.toNat = (loaded (State.reset.setI 0x202) 0xF155).pc.toNat + 2 ∧
    Executes (loaded ((State.reset.setPc 0xFFC).setI 0xFFE) 0xF155) (.storeRegs 1) ∧
    (0xFFE : Word).toNat + (0x1 : Nibble).toNat ≤ 0xFFF :=
  ⟨by unfold MemoryCanonical; decide, ⟨rfl, by decide, by decide⟩, by decide, by decide, by decide,
    ⟨rfl, by decide, by decide⟩, by decide⟩

/-- Both clauses: SP = 16, and SP = 15, the last that a CALL accepts; both bounds of SP. -/
theorem witness_CallPushesItsOwnAddress : (withSp 16).sp.val = 16 ∧ (withSp 15).sp.val ≠ 16 ∧ (withSp 0).sp.val ≠ 16 := by decide

theorem witness_RetReturnsPastTheCall : (withSp 0).sp.val = 0 ∧ (withSp 1).sp.val ≠ 0 ∧ (withSp 16).sp.val ≠ 0 := by decide

/-- Both values of each condition. -/
theorem witness_RegisterSkips :
    (regs 1 7 2 7).readV 1 = 7 ∧ (regs 1 7 2 7).readV 1 = (regs 1 7 2 7).readV 2 ∧ (regs 1 7 2 8).readV 1 ≠ 8 ∧
    (regs 1 7 2 8).readV 1 ≠ (regs 1 7 2 8).readV 2 := by decide

/-- 255 + 0 has no carry, 255 + 1 has; a destination that is not VF, and VF. -/
theorem witness_AddRegSetsCarry :
    ¬ 255 < ((regs 1 255 2 0).readV 1).toNat + ((regs 1 255 2 0).readV 2).toNat ∧
    255 < ((regs 1 255 2 1).readV 1).toNat + ((regs 1 255 2 1).readV 2).toNat ∧ (0xE : Nibble) ≠ 0xF := by decide

/-- Equal operands, and operands one apart. -/
theorem witness_SubtractionsSetStrictComparison :
    ¬ ((regs 1 5 2 5).readV 2).toNat < ((regs 1 5 2 5).readV 1).toNat ∧
    ((regs 1 6 2 5).readV 2).toNat < ((regs 1 6 2 5).readV 1).toNat := by decide

/-- Both settings of SHIFT_SOURCE. -/
theorem witness_ShiftsBySource :
    (0x81 : Byte) = (if (regs 1 0x81 2 0x40).shiftSource = .vx then (regs 1 0x81 2 0x40).readV 1 else (regs 1 0x81 2 0x40).readV 2) ∧
    (0x40 : Byte) = (if ((regs 1 0x81 2 0x40).setShiftSource .vy).shiftSource = .vx then
      ((regs 1 0x81 2 0x40).setShiftSource .vy).readV 1 else ((regs 1 0x81 2 0x40).setShiftSource .vy).readV 2) := by decide

/-- The last I that Fx33 accepts, and the next. -/
theorem witness_LdBStoresThreeDigits :
    MemoryCanonical (State.reset.setI 0xFFD) ∧ (State.reset.setI 0xFFD).i.toNat + 3 ≤ 4096 ∧
    MemoryCanonical (State.reset.setI 0xFFE) ∧ ¬ (State.reset.setI 0xFFE).i.toNat + 3 ≤ 4096 :=
  ⟨rfl, by decide, rfl, by decide⟩

/-- The last I that Fx55 and Fx65 accept for x = F, and the next. -/
theorem witness_StoreRegsWritesInclusiveRange :
    MemoryCanonical (State.reset.setI 0xFF0) ∧ (State.reset.setI 0xFF0).i.toNat + (0xF : Nibble).toNat ≤ 0xFFF ∧
    MemoryCanonical (State.reset.setI 0xFF1) ∧ ¬ (State.reset.setI 0xFF1).i.toNat + (0xF : Nibble).toNat ≤ 0xFFF :=
  ⟨rfl, by decide, rfl, by decide⟩

theorem witness_LoadRegsReadsInclusiveRange :
    (State.reset.setI 0xFFF).i.toNat + (0x0 : Nibble).toNat ≤ 0xFFF ∧
    ¬ (State.reset.setI 0x1000).i.toNat + (0x0 : Nibble).toNat ≤ 0xFFF := by decide

/-- n = 0 with I outside memory; the last I for n = 15, and the next. -/
theorem witness_DrwXorsTheClippedSprite :
    ((0x0 : Nibble).toNat = 0 ∨ (State.reset.setI 0xFFFF).i.toNat + (0x0 : Nibble).toNat ≤ 4096) ∧
    ((0xF : Nibble).toNat = 0 ∨ (State.reset.setI 0xFF1).i.toNat + (0xF : Nibble).toNat ≤ 4096) ∧
    ¬ ((0xF : Nibble).toNat = 0 ∨ (State.reset.setI 0xFF2).i.toNat + (0xF : Nibble).toNat ≤ 4096) := by decide

/-- A sprite with a 1-bit inside the grid, on a clear framebuffer and on one where that pixel is on. -/
theorem witness_DrawingTwiceRestoresTheFramebuffer :
    (0x0 : Nibble) ≠ 0xF ∧ (0x1 : Nibble) ≠ 0xF ∧ State.reset.i.toNat + (0x5 : Nibble).toNat ≤ 4096 ∧
    spriteBit State.reset 0 1 5 0 0 = true ∧ pixel State.reset.fb 0 0 = false ∧
    pixel { State.reset with fb := clearFb.set 0 0x80 }.fb 0 0 = true ∧ pixel State.reset.fb 63 31 = false := by decide

/-- The reset framebuffer meets the premise of the third clause: every pixel is off. -/
theorem witness_DrawingTwiceRestoresTheFramebuffer_clear (x y : Nat) : pixel State.reset.fb x y = false := by
  unfold pixel
  split
  · simp [State.reset]
  · rfl

/-- The last key number, and the next. -/
theorem witness_KeySkips :
    ((State.reset.writeV 5 0x0F).readV 5).toNat ≤ 0xF ∧ ¬ ((State.reset.writeV 5 0x10).readV 5).toNat ≤ 0xF ∧
    (State.reset.keyEvent 0xF .pressed).keys.getLsbD 0xF = true ∧ State.reset.keys.getLsbD 0xF = false := by decide

/-- The last key pressed alone, the first pressed with it, and no key pressed. -/
theorem witness_LdVxKTakesTheLowestKey :
    (State.reset.keyEvent 0xF .pressed).keys.getLsbD 0xF = true ∧
    (∀ j < 0xF, (State.reset.keyEvent 0xF .pressed).keys.getLsbD j = false) ∧
    ((State.reset.keyEvent 0xF .pressed).keyEvent 0 .pressed).keys.getLsbD 0 = true ∧
    (∀ k < 16, State.reset.keys.getLsbD k = false) := by decide

theorem witness_Fx07ReadsTheTickedTimer : Executes (loaded (State.reset.setDt 1) 0xF407) (.ldVxDt 0x4) :=
  ⟨rfl, by decide, by decide⟩

/-- The longest ROM and the shortest that are loaded, and the shortest that is not. -/
theorem witness_LoadRomCopiesOrRejects (b : Byte) :
    (List.replicate 3584 b).length ≤ 3584 ∧ ([] : List Byte).length ≤ 3584 ∧ ¬ (List.replicate 3585 b).length ≤ 3584 := by
  simp only [List.length_replicate]
  decide

/-- The first and the last key; both actions. -/
theorem witness_KeyEventSetsOneKey :
    (State.reset.keyEvent 0 .pressed).key 0 = true ∧ (State.reset.keyEvent 0xF .pressed).key 0xF = true ∧
    ((State.reset.keyEvent 0xF .pressed).keyEvent 0xF .released).key 0xF = false := by decide

/-- Both codes of the port, at the longest ROM that is loaded and the shortest that is not. -/
theorem witness_LoadStatusPortCode (b : Byte) :
    (State.reset.loadRom defaultFont (List.replicate 3584 b)).1.code = 0 ∧
    (State.reset.loadRom defaultFont (List.replicate 3585 b)).1.code = 1 := by
  rw [State.loadRom, State.loadRom, (test_wf_rom_length b).1, (test_wf_rom_length b).2]
  exact ⟨rfl, rfl⟩

end Sys2Proof.Tests
end

section
/-! PROOFS. What a step does to the state of 10_state.md, said as three facts: a step that executes no instruction to its
end leaves everything but the halt record, the flags and the timers; a step that changes anything else completed an
instruction; and every step has an answer. The statements on who may write what (O15 to O18, O20) are readings of these. -/

namespace Sys2Proof.Proofs

open Machine

/-- The step executed no instruction to its end: the core was halted, or the step raised a fault. -/
def Stopped (s t : State) : Prop := t = s ∨ ∃ c op addr, t = s.begun.raiseFault c op addr

/-- A step stops, or completes the instruction at PC. -/
theorem step_stopped_or_completes {s t : State} (h : step s = .next t) :
    Stopped s t ∨ ∃ i, Executes s i ∧ Completes i s.begun t := by
  rcases step_inversion h with ⟨-, e⟩ | ⟨-, -, e⟩ | ⟨-, -, -, e⟩ | hi | ⟨i, c, addr, -, -, e⟩
  · exact .inl (.inl e)
  · exact .inl (.inr ⟨_, _, _, e⟩)
  · exact .inl (.inr ⟨_, _, _, e⟩)
  · exact .inr hi
  · exact .inl (.inr ⟨_, _, _, e⟩)

/-- R245: a step that stops changes the halt record, the flags and the timers at most. -/
theorem Stopped.frame {s t : State} (h : Stopped s t) : UnchangedBut [.halt, .draw, .beep, .dt, .st] s t := by
  rcases h with rfl | ⟨c, op, addr, rfl⟩
  all_goals intro k hk; cases k <;> simp_all [Component.Same]

/-- A step that changes a component outside that frame completed the instruction at PC. -/
theorem completes_of_not_same {s t : State} (c : Component) (h : step s = .next t) (hne : ¬ c.Same s t)
    (hc : c ∉ [Component.halt, .draw, .beep, .dt, .st]) : ∃ i, Executes s i ∧ Completes i s.begun t :=
  (step_stopped_or_completes h).resolve_left fun hs => hne (hs.frame c hc)

/-- R100: the step of a running core whose word at PC decodes is exec of that instruction. -/
theorem step_of_executes {s : State} {i : Instr} (hi : Executes s i) : step s = exec i s.begun := by
  rcases step_cases s with ⟨hh, -⟩ | ⟨-, hf, -⟩ | ⟨-, -, hd, -⟩ | ⟨j, hj, e⟩
  · rw [hi.1] at hh; cases hh
  · exact absurd hi.2.1 hf
  · exact absurd (hi.2.2.symm.trans hd) (by simp)
  · rw [executes_unique hi hj, e]

/-- exec always answers a next state. -/
theorem exists_exec_next (i : Instr) (s : State) : ∃ t, exec i s = .next t := by
  rcases exec_answers i s with ⟨t, e, -⟩ | ⟨_, _, e, -⟩
  · exact ⟨t, e⟩
  · exact ⟨_, e⟩

/-- A step always answers a next state. -/
theorem exists_step_next (s : State) : ∃ t, step s = .next t := by
  rcases step_cases s with ⟨-, e⟩ | ⟨-, -, e⟩ | ⟨-, -, -, e⟩ | ⟨i, -, e⟩
  · exact ⟨_, e⟩
  · exact ⟨_, e⟩
  · exact ⟨_, e⟩
  · exact e ▸ exists_exec_next i s.begun

/-! ### Who may write the keypad, CONFIG, the stack, I and the pixels -/

/-- Settles O15: a step that stops keeps both, and so does every instruction that completes. -/
theorem stepsNeverWriteKeysOrConfig : Obligations.StepsNeverWriteKeysOrConfig := by
  intro s t h
  rcases step_stopped_or_completes h with hs | ⟨i, -, hc⟩
  · exact ⟨hs.frame .keys (by decide), hs.frame .config (by decide)⟩
  · exact ⟨hc.keys, hc.config⟩

/-- Settles O17, from what a completed instruction can do to SP and to a stack entry. -/
theorem onlyCallAndRetWriteTheStack : Obligations.OnlyCallAndRetWriteTheStack := by
  refine fun s t h => ⟨fun hne => ?_, fun j hne => ?_⟩
  · obtain ⟨i, hi, hc⟩ := completes_of_not_same .sp h hne (by decide)
    rcases hc.sp with e | ⟨n, rfl⟩ | rfl
    · exact absurd e hne
    · exact .inl ⟨n, hi⟩
    · exact .inr hi
  · obtain ⟨i, hi, hc⟩ := completes_of_not_same .stack h (fun hs => hne (hs j)) (by decide)
    rcases hc.stack j with e | ⟨⟨n, rfl⟩, hj, -⟩
    · exact absurd e hne
    · exact ⟨⟨n, hi⟩, hj⟩

/-- Settles O18, from what a completed instruction can do to I. -/
theorem onlyThreeInstructionsWriteI : Obligations.OnlyThreeInstructionsWriteI := by
  intro s t h hne
  obtain ⟨i, hi, hc⟩ := completes_of_not_same .i h hne (by decide)
  rcases hc.index with e | ⟨n, rfl⟩ | ⟨x, rfl⟩ | ⟨x, rfl⟩
  · exact absurd e hne
  · exact .inl ⟨n, hi⟩
  · exact .inr (.inl ⟨x, hi⟩)
  · exact .inr (.inr ⟨x, hi⟩)

/-- Settles O20: a completed instruction leaves the framebuffer alone, or it is 00E0 or Dxyn and sets DRAW. -/
theorem onlyTwoInstructionsWritePixels : Obligations.OnlyTwoInstructionsWritePixels := by
  intro s t x y h hne
  obtain ⟨i, hi, hc⟩ := completes_of_not_same .fb h (fun hs => hne (hs x y)) (by decide)
  rcases hc.fb with ⟨e, -⟩ | ⟨rfl | ⟨p, q, n, rfl⟩, hd⟩
  · exact absurd (by rw [e]; rfl) hne
  · exact ⟨.inl hi, hd⟩
  · exact ⟨.inr ⟨p, q, n, hi⟩, hd⟩

end Sys2Proof.Proofs
end

section
/-! PROOFS. Which general registers an instruction writes (10_state.md R22, R23): exec, arm by arm, keeps every register that
its row of R22 does not name. -/

namespace Sys2Proof.Proofs

open Machine

/-- Every next state the answer gives has the V[r] of `s`. -/
def KeepsV (r : Nibble) (s : State) (o : Host.Outcome State Fault Refusal) : Prop :=
  ∀ t, o = .next t → t.readV r = s.readV r

theorem keepsV_next {r : Nibble} {s t : State} (h : t.readV r = s.readV r) : KeepsV r s (.next t) := by
  rintro u ⟨⟩; exact h

theorem keepsV_advance {r : Nibble} {s t : State} (h : t.readV r = s.readV r) : KeepsV r s (.next t.advance) :=
  keepsV_next ((State.advance_readV t r).trans h)

theorem keepsV_guardRange {r : Nibble} {s ok : State} (i : Instr) (len : Nat) (h : ok.readV r = s.readV r) :
    KeepsV r s (guardRange i len s ok.advance) := by
  rw [guardRange_eq]
  split
  · exact keepsV_advance h
  · exact keepsV_next rfl

theorem keepsV_guardKey {r : Nibble} {s ok : State} (i : Instr) (k : Byte) (h : ok.readV r = s.readV r) :
    KeepsV r s (guardKey i k s ok) := by
  rw [guardKey_eq]
  split
  · exact keepsV_next h
  · exact keepsV_next rfl

/-- A skip writes no register. -/
theorem skipIf_readV (s : State) (c : Bool) (r : Nibble) : (s.skipIf c).readV r = s.readV r := by
  rw [State.skipIf_eq, State.setPc_readV]

/-- A register that is neither x nor VF outlives a flagged write (R150). -/
theorem writeFlagged_readV_of_ne {r x : Nibble} (s : State) (b : Byte) (f : Bool) (hx : r ≠ x) (hF : r ≠ 0xF) :
    (s.writeFlagged x b f).readV r = s.readV r := by
  rw [State.writeFlagged_readV, if_neg hF, if_neg hx]

theorem writeV_readV_of_ne {r x : Nibble} (s : State) (b : Byte) (hx : r ≠ x) : (s.writeV x b).readV r = s.readV r := by
  rw [State.writeV_readV, if_neg hx]

/-- Fx65 keeps the registers above x (R186). -/
theorem loadedRegs_readV_of_gt {r x : Nibble} (s : State) (h : ¬ r.toNat ≤ x.toNat) :
    (s.setV (s.loadedRegs x)).readV r = s.readV r := by
  rw [State.setV_readV, State.loadedRegs_getElem, if_neg h]

theorem keepsV_call (r : Nibble) (n : Addr12) (s : State) : KeepsV r s (execCall n s) := by
  rw [execCall_eq]
  split
  · exact keepsV_next rfl
  · exact keepsV_next rfl

theorem keepsV_ret (r : Nibble) (s : State) : KeepsV r s (execRet s) := by
  rw [execRet_eq]
  split
  · exact keepsV_next rfl
  · exact keepsV_next rfl

/-- Fx0A writes V[x] when a key is pressed, and nothing when none is (R223). -/
theorem keepsV_ldVxK {r x : Nibble} (s : State) (h : r ≠ x) : KeepsV r s (execLdVxK x s) := by
  unfold execLdVxK
  split
  · exact keepsV_advance (writeV_readV_of_ne s _ h)
  · exact keepsV_next rfl

/-- R22, R23: an instruction keeps every register its row does not write. -/
theorem exec_keepsV {i : Instr} {r : Nibble} (s : State) (h : i.writesV r = false) : KeepsV r s (exec i s) := by
  cases i with
  | call n => exact keepsV_call r n s
  | ret => exact keepsV_ret r s
  | ldVxK x => exact keepsV_ldVxK s (by simpa [Instr.writesV] using h)
  | seImm | sneImm | seReg | sneReg => exact keepsV_next (skipIf_readV s _ r)
  | skp | sknp => exact keepsV_guardKey _ _ (skipIf_readV s _ r)
  | jp | jpV0 => exact keepsV_next rfl
  | cls | ldI | ldDtVx | ldStVx | addI | ldF => exact keepsV_advance rfl
  | ldB | storeRegs => exact keepsV_guardRange _ _ rfl
  | ldImm | addImm | ldReg | orReg | andReg | xorReg | ldVxDt =>
    exact keepsV_advance (writeV_readV_of_ne s _ (of_decide_eq_false h))
  | rnd => exact keepsV_advance (by rw [State.countDraw_readV, writeV_readV_of_ne s _ (of_decide_eq_false h)])
  | addReg x | sub x | shr x | subn x | shl x =>
    obtain ⟨hx, hF⟩ : r ≠ x ∧ r ≠ 0xF := by simpa [Instr.writesV] using h
    exact keepsV_advance (writeFlagged_readV_of_ne s _ _ hx hF)
  | drw =>
    refine keepsV_guardRange _ _ ?_
    rw [State.setFbDraw_readV, writeV_readV_of_ne s _ (of_decide_eq_false h)]
  | loadRegs => exact keepsV_guardRange _ _ (loadedRegs_readV_of_gt s (of_decide_eq_false h))

/-- Settles O16: the step that changes V[r] is exec of the instruction at PC, which keeps every register its row of R22 does
not write. -/
theorem onlyNamedRegistersAreWritten : Obligations.OnlyNamedRegistersAreWritten := by
  intro s t r h hne
  obtain ⟨i, hi, -⟩ := completes_of_not_same .regs h (fun hs => hne (hs r)) (by decide)
  refine ⟨i, hi, ?_⟩
  by_contra hw
  exact hne (exec_keepsV s.begun (Bool.eq_false_iff.mpr hw) t (step_of_executes hi ▸ h))

end Sys2Proof.Proofs
end

section
/-! PROOFS. R39: ST, DRAW and BEEP are read by no instruction. States that agree but for these three are taken by every
operation of the cycle to states that agree but for these three. -/

namespace Sys2Proof.Proofs

open Machine

/-- `u` is `s` but for the values of ST, DRAW and BEEP (R39). -/
def AgreeButSound (s u : State) : Prop := ∃ st draw beep, u = { s with st := st, draw := draw, beep := beep }

/-- Two answers are next states that agree but for ST, DRAW and BEEP. -/
def AnswersAgree (o p : Host.Outcome State Fault Refusal) : Prop :=
  ∃ t u, o = .next t ∧ p = .next u ∧ AgreeButSound t u

theorem AgreeButSound.frame {s u : State} (h : AgreeButSound s u) : UnchangedBut [.st, .draw, .beep] s u := by
  obtain ⟨st, draw, beep, rfl⟩ := h
  intro c hc
  cases c with
  | st | draw | beep => simp at hc
  | halt => exact ⟨rfl, rfl, rfl, rfl, rfl, rfl⟩
  | regs | stack | mem => exact fun _ => rfl
  | fb => exact fun _ _ => rfl
  | i | pc | sp | dt | keys | config | draws => rfl

theorem AgreeButSound.begun {s u : State} (h : AgreeButSound s u) : AgreeButSound s.begun u.begun := by
  obtain ⟨_, _, _, rfl⟩ := h
  exact ⟨_, _, _, rfl⟩

theorem AgreeButSound.raiseFault {s u : State} (h : AgreeButSound s u) (c : Cause) (op : Option Word) (addr : Word) :
    AgreeButSound (s.raiseFault c op addr) (u.raiseFault c op addr) := by
  obtain ⟨_, _, _, rfl⟩ := h
  exact ⟨_, _, _, rfl⟩

theorem AgreeButSound.skipIf {s u : State} (h : AgreeButSound s u) (c : Bool) :
    AgreeButSound (s.skipIf c) (u.skipIf c) := by
  obtain ⟨_, _, _, rfl⟩ := h
  rw [State.skipIf_eq, State.skipIf_eq]
  exact ⟨_, _, _, rfl⟩

theorem answersAgree_next {t u : State} (h : AgreeButSound t u) : AnswersAgree (.next t) (.next u) := ⟨t, u, rfl, rfl, h⟩

section Guards

variable {s u ok ok' : State} (hs : AgreeButSound s u) (hok : AgreeButSound ok ok') (i : Instr)
include hs hok

theorem guardRange_agree (len : Nat) : AnswersAgree (guardRange i len s ok) (guardRange i len u ok') := by
  have hi : u.i = s.i := hs.frame .i (by decide)
  rw [guardRange_eq, guardRange_eq, hi]
  split
  · exact answersAgree_next hok
  · exact answersAgree_next (hs.raiseFault _ _ _)

theorem guardKey_agree (k : Byte) : AnswersAgree (guardKey i k s ok) (guardKey i k u ok') := by
  rw [guardKey_eq, guardKey_eq]
  split
  · exact answersAgree_next hok
  · exact answersAgree_next (hs.raiseFault _ _ _)

end Guards

theorem call_agree (n : Addr12) {s u : State} (h : AgreeButSound s u) :
    AnswersAgree (execCall n s) (execCall n u) := by
  have hu := h
  obtain ⟨st, draw, beep, rfl⟩ := hu
  rw [execCall_eq, execCall_eq]
  by_cases hsp : s.sp.val < 16
  · simp only [hsp, dite_true]
    exact answersAgree_next ⟨_, _, _, rfl⟩
  · simp only [hsp, dite_false]
    exact answersAgree_next (h.raiseFault _ _ _)

theorem ret_agree {s u : State} (h : AgreeButSound s u) : AnswersAgree (execRet s) (execRet u) := by
  have hu := h
  obtain ⟨st, draw, beep, rfl⟩ := hu
  rw [execRet_eq, execRet_eq]
  by_cases hsp : 0 < s.sp.val
  · simp only [hsp, dite_true]
    exact answersAgree_next ⟨_, _, _, rfl⟩
  · simp only [hsp, dite_false]
    exact answersAgree_next (h.raiseFault _ _ _)

/-- Fx0A reads KEYS only. -/
theorem ldVxK_agree (x : Nibble) {s u : State} (h : AgreeButSound s u) :
    AnswersAgree (execLdVxK x s) (execLdVxK x u) := by
  have hu := h
  obtain ⟨st, draw, beep, rfl⟩ := hu
  unfold execLdVxK
  cases lowestKey s.keys with
  | none => exact answersAgree_next h
  | some k => exact answersAgree_next ⟨_, _, _, rfl⟩

/-- No instruction reads ST, DRAW or BEEP. -/
theorem exec_agree (i : Instr) {s u : State} (h : AgreeButSound s u) : AnswersAgree (exec i s) (exec i u) := by
  have hu := h
  obtain ⟨st, draw, beep, rfl⟩ := hu
  cases i with
  | call n => exact call_agree n h
  | ret => exact ret_agree h
  | seImm | sneImm | seReg | sneReg => exact answersAgree_next (h.skipIf _)
  | skp x | sknp x => exact guardKey_agree h (h.skipIf _) _ (s.readV x)
  | drw | ldB | storeRegs | loadRegs => exact guardRange_agree h ⟨_, _, _, rfl⟩ _ _
  | ldVxK x => exact ldVxK_agree x h
  | cls | jp | jpV0 | ldImm | addImm | ldReg | orReg | andReg | xorReg | addReg | sub | shr | subn | shl | rnd | ldI
  | addI | ldF | ldVxDt | ldDtVx | ldStVx => exact answersAgree_next ⟨_, _, _, rfl⟩

/-- The fetch reads none of the three. -/
theorem AgreeButSound.fetch {s u : State} (h : AgreeButSound s u) : u.halted = s.halted ∧ u.pc = s.pc ∧
    u.fetchOp = s.fetchOp ∧ u.begun.fetchFaultAddr = s.begun.fetchFaultAddr := by
  obtain ⟨_, _, _, rfl⟩ := h
  exact ⟨rfl, rfl, rfl, rfl⟩

/-- No step reads ST, DRAW or BEEP, but to tick ST and to write the two flags. -/
theorem step_agree {s u : State} (h : AgreeButSound s u) : AnswersAgree (step s) (step u) := by
  obtain ⟨ehalt, epc, eop, eaddr⟩ := h.fetch
  rcases step_cases s with ⟨hh, e⟩ | ⟨hh, hf, e⟩ | ⟨hh, hf, hd, e⟩ | ⟨i, ⟨hh, hf, hd⟩, e⟩
  · rw [e, step_halted (ehalt.trans hh)]
    exact answersAgree_next h
  · rw [e, step_fetchFault (ehalt.trans hh) (epc ▸ hf), eaddr]
    exact answersAgree_next (h.begun.raiseFault _ _ _)
  · rw [e, step_decodeError (ehalt.trans hh) (epc ▸ hf) (eop ▸ hd), eop]
    exact answersAgree_next (h.begun.raiseFault _ _ _)
  · rw [e, step_of_executes ⟨ehalt.trans hh, epc ▸ hf, (congrArg decode eop).trans hd⟩]
    exact exec_agree i h.begun

/-- Settles O21, by following the two states through the cycle. -/
theorem soundTimerAndFlagsDoNotLeak : Obligations.SoundTimerAndFlagsDoNotLeak := by
  intro s st draw beep
  obtain ⟨t, u, ht, hu, h⟩ := step_agree ⟨st, draw, beep, rfl⟩
  exact ⟨t, u, ht, hu, h.frame⟩

end Sys2Proof.Proofs
end

section
/-! PROOFS. The three invariants: each is kept by a step, each by the host's other operations, so each holds of every
reachable state. -/

namespace Sys2Proof.Proofs

open Machine

/-! ### PC and the return addresses (R24) -/

/-- An instruction fetched from memory leaves PC at or below 0x10FE: a jump gives at most 0xFFF + 0xFF, and an advance, a
skip or a return starts from an address an instruction was fetched from. -/
theorem pcAfter_le {s : State} {p : Word} (hs : PcBounded s) (hf : s.pc.toNat ≤ 0xFFE) (h : PcAfter s p) :
    p.toNat ≤ 0x10FE := by
  have h2 : (2 : Word).toNat = 2 := rfl
  have h4 : (4 : Word).toNat = 4 := rfl
  rcases h with h | rfl | rfl | rfl | ⟨j, rfl⟩
  · exact h
  · omega
  · rw [BitVec.toNat_add]; omega
  · rw [BitVec.toNat_add]; omega
  · have hj := hs.2 j
    rw [BitVec.toNat_add]; omega

/-- An instruction fetched from memory and completed keeps the bounds: the one address it can push is its own. -/
theorem completes_keeps_pcBounded {i : Instr} {s t : State} (hc : Completes i s t) (hf : s.pc.toNat ≤ 0xFFE)
    (hs : PcBounded s) : PcBounded t := by
  refine ⟨pcAfter_le hs hf hc.pc, fun j => ?_⟩
  rcases hc.stack j with e | ⟨-, -, e⟩
  · rw [e]; exact hs.2 j
  · rw [e]; exact hf

/-- The bounds read PC and the stack only. -/
theorem pcBounded_of_same {s t : State} (hpc : Component.Same s t .pc) (hst : Component.Same s t .stack)
    (hs : PcBounded s) : PcBounded t :=
  ⟨(congrArg BitVec.toNat hpc).trans_le hs.1, fun j => (congrArg BitVec.toNat (hst j)).trans_le (hs.2 j)⟩

/-- Settles O22: a step that stops moves neither PC nor the stack; one that completes an instruction fetched it from below
0xFFF. -/
theorem stepKeepsPcBounded : Obligations.StepKeepsPcBounded := by
  intro s t hs h
  rcases step_stopped_or_completes h with hst | ⟨i, hi, hc⟩
  · exact pcBounded_of_same (hst.frame .pc (by decide)) (hst.frame .stack (by decide)) hs
  · have hf : s.begun.pc.toNat ≤ 0xFFE := by have := hi.2.1; rw [State.begun_pc]; omega
    exact completes_keeps_pcBounded hc hf hs

/-! ### Canonical memory (log entry 2) -/

/-- A step keeps memory in its canonical form. -/
theorem step_keeps_memoryCanonical {s t : State} (hs : MemoryCanonical s) (h : step s = .next t) : MemoryCanonical t := by
  rcases step_stopped_or_completes h with (rfl | ⟨c, op, addr, rfl⟩) | ⟨i, -, hc⟩
  · exact hs
  · exact hs
  · exact hc.canonical hs

/-! ### The halt record (R34, R40, R240, R245) -/

/-- A running core's record is consistent when it is empty. -/
theorem haltRecord_of_running {s : State} (hh : s.halted = false) (hc : s.cause = .none) (ho : s.opv = false)
    (hp : s.faultPc = 0) (hw : s.faultOpcode = 0) (ha : s.faultAddr = 0) : HaltRecordConsistent s := by
  simp [HaltRecordConsistent, hh, hc, ho, hp, hw, ha]

/-- What a fault must be for its entry to be a consistent record: a cause, MemoryFault if no opcode is given, and an address
beyond memory if it is a MemoryFault. -/
theorem haltRecord_of_raiseFault {s : State} {c : Cause} {op : Option Word} {addr : Word} (hd : s.draw = false)
    (hc : c ≠ .none) (hop : op = none → c = .memoryFault) (ha : c = .memoryFault → 0x1000 ≤ addr.toNat) :
    HaltRecordConsistent (s.raiseFault c op addr) := by
  refine ⟨by simp, fun _ => ⟨hc, rfl, hd⟩, ?_, fun _ h => hop (by simpa using h), ?_, ?_⟩
  · cases op <;> simp
  · intro h
    simpa [show c = .memoryFault from h] using ha h
  · intro h
    simp [show c ≠ .memoryFault from h]

/-- FAULT_ADDR of a range check is beyond memory. -/
theorem firstOutOfRange_ge (a : Word) : 0x1000 ≤ (firstOutOfRange a).toNat := by
  unfold firstOutOfRange
  split
  · decide
  · omega

/-- FAULT_ADDR of a fetch fault is beyond memory. -/
theorem fetchFaultAddr_ge (s : State) : 0x1000 ≤ s.fetchFaultAddr.toNat := by
  rw [State.fetchFaultAddr, show (0x1000 : Nat) = 4096 from rfl, ofNat_max_eq_firstOutOfRange]
  exact firstOutOfRange_ge s.pc

/-- An instruction's own fault has a cause. -/
theorem faults_cause_ne_none {i : Instr} {s : State} {c : Cause} {addr : Word} (h : Faults i s c addr) : c ≠ .none := by
  rcases h with ⟨rfl, -⟩ | ⟨rfl, -⟩ | ⟨rfl, -⟩ | ⟨rfl, -⟩ <;> decide

/-- An instruction's own MemoryFault is at an address beyond memory. -/
theorem faults_addr_ge {i : Instr} {s : State} {c : Cause} {addr : Word} (h : Faults i s c addr)
    (hm : c = .memoryFault) : 0x1000 ≤ addr.toNat := by
  subst hm
  rcases h with ⟨h, -⟩ | ⟨h, -⟩ | ⟨h, -⟩ | ⟨-, rfl, -⟩
  · cases h
  · cases h
  · cases h
  · exact firstOutOfRange_ge s.i

/-- A completed instruction leaves a running core's empty record empty. -/
theorem completes_keeps_haltRecord {i : Instr} {s t : State} (hc : Completes i s.begun t) (hr : s.halted = false)
    (hs : HaltRecordConsistent s) : HaltRecordConsistent t := by
  obtain ⟨hh, hca, ho, hp, hw, ha⟩ := hc.halt
  obtain ⟨eca, eo, ep, ew, ea⟩ := hs.1 hr
  exact haltRecord_of_running (hh.trans hr) (hca.trans eca) (ho.trans eo) (hp.trans ep) (hw.trans ew) (ha.trans ea)

/-- Settles O24, by the five things a step can do. -/
theorem stepKeepsHaltRecordConsistent : Obligations.StepKeepsHaltRecordConsistent := by
  intro s t hs h
  rcases step_inversion h with ⟨-, rfl⟩ | ⟨-, -, rfl⟩ | ⟨-, -, -, rfl⟩ | ⟨i, hi, hc⟩ | ⟨i, c, addr, -, hf, rfl⟩
  · exact hs
  · exact haltRecord_of_raiseFault rfl (by decide) (fun _ => rfl) fun _ => fetchFaultAddr_ge s.begun
  · exact haltRecord_of_raiseFault rfl (by decide) (by simp) (by simp)
  · exact completes_keeps_haltRecord hc hi.1 hs
  · exact haltRecord_of_raiseFault rfl (faults_cause_ne_none hf) (by simp) (faults_addr_ge hf)

/-! ### Every reachable state (R45, R49) -/

/-- The three invariants as one. -/
def Invariants (s : State) : Prop := PcBounded s ∧ MemoryCanonical s ∧ HaltRecordConsistent s

/-- The host's reset, with memory rewritten in canonical form, meets the invariants: the shape of a reset and of a load. -/
theorem hostReset_setMem_invariants (s : State) (font : Font) {m : Memory} (hm : Memory.wf m = true) :
    Invariants ((s.hostReset font).setMem m) := by
  refine ⟨⟨show (0x200 : Word).toNat ≤ 0x10FE by decide, fun j => ?_⟩, hm, haltRecord_of_running rfl rfl rfl rfl rfl rfl⟩
  show ((Vector.replicate 16 (0 : Word))[j]).toNat ≤ 0xFFE
  simp

theorem hostReset_mem_wf (s : State) (font : Font) : Memory.wf (s.hostReset font).mem = true :=
  Memory.writeList_wf _ _ State.reset_mem_wf

theorem hostReset_invariants (s : State) (font : Font) : Invariants (s.hostReset font) :=
  hostReset_setMem_invariants s font (hostReset_mem_wf s font)

theorem loadRom_keeps_invariants {s : State} (font : Font) (bytes : List Byte) (hs : Invariants s) :
    Invariants (s.loadRom font bytes).2 := by
  rw [State.loadRom_eq]
  split
  · exact hostReset_setMem_invariants s font (Memory.writeList_wf _ _ (hostReset_mem_wf s font))
  · exact hs

theorem step_keeps_invariants {s t : State} (hs : Invariants s) (h : step s = .next t) : Invariants t := by
  obtain ⟨hpc, hmem, hhalt⟩ := hs
  exact ⟨stepKeepsPcBounded s t hpc h, step_keeps_memoryCanonical hmem h, stepKeepsHaltRecordConsistent s t hhalt h⟩

/-- The invariants do not read KEYS. -/
theorem keyEvent_keeps_invariants {s : State} (k : Nibble) (p : KeyAction) (hs : Invariants s) :
    Invariants (s.keyEvent k p) := by
  cases p
  · exact hs
  · exact hs

/-- The step of the host is the step of the machine. -/
theorem apply_step {s t : State} (font : Font) (h : step s = .next t) : HostOp.step.apply font s = t := by
  simp [HostOp.apply, h]

/-- Every operation of the host keeps the invariants. -/
theorem apply_keeps_invariants (font : Font) {s : State} (o : HostOp) (hs : Invariants s) :
    Invariants (o.apply font s) := by
  cases o with
  | reset => exact hostReset_invariants s font
  | loadRom bytes => exact loadRom_keeps_invariants font bytes hs
  | step =>
    obtain ⟨t, h⟩ := exists_step_next s
    rw [apply_step font h]
    exact step_keeps_invariants hs h
  | keyEvent k p => exact keyEvent_keeps_invariants k p hs
  | driveConfig b => exact hs

/-- Settles O26, by induction on the host's operations. -/
theorem reachableStatesMeetTheInvariants : Obligations.ReachableStatesMeetTheInvariants := by
  intro font s h
  induction h with
  | reset => exact hostReset_invariants State.reset font
  | op s o _ ih => exact apply_keeps_invariants font o ih

end Sys2Proof.Proofs
end

section
/-! PROOFS. The host's port: key events (R47), the registers the host reads (R34) and the answer of a load (R46). -/

namespace Sys2Proof.Proofs

open Machine

/-! ### Key events -/

/-- R31: a key event gives its key the level of the action and leaves every other key. -/
theorem keyEvent_key (s : State) (k : Nibble) (p : KeyAction) {j : Nat} (hj : j < 16) :
    (s.keyEvent k p).key j = if j = k.toNat then decide (p = .pressed) else s.key j := by
  cases p with
  | pressed =>
    show (s.keys ||| BitVec.twoPow 16 k.toNat).getLsbD j = _
    rw [BitVec.getLsbD_or, BitVec.getLsbD_twoPow]
    by_cases h : j = k.toNat
    · subst h; simp [hj]
    · simp [h, Ne.symm h, State.key]
  | released =>
    show (s.keys &&& ~~~ BitVec.twoPow 16 k.toNat).getLsbD j = _
    rw [BitVec.getLsbD_and, BitVec.getLsbD_not, BitVec.getLsbD_twoPow]
    by_cases h : j = k.toNat
    · subst h; simp [hj]
    · simp [h, Ne.symm h, hj, State.key]

/-- Writing KEYS changes KEYS only. -/
theorem setKeys_frame (s : State) (ks : BitVec 16) : UnchangedBut [.keys] s (s.setKeys ks) := by
  intro c hc
  cases c with
  | keys => simp at hc
  | halt => exact ⟨rfl, rfl, rfl, rfl, rfl, rfl⟩
  | regs | stack | mem => exact fun _ => rfl
  | fb => exact fun _ _ => rfl
  | i | pc | sp | dt | st | draw | beep | config | draws => rfl

theorem keyEvent_frame (s : State) (k : Nibble) (p : KeyAction) : UnchangedBut [.keys] s (s.keyEvent k p) := by
  cases p
  · exact setKeys_frame s _
  · exact setKeys_frame s _

/-- Settles O57, from the level of each key and the frame of a key event. -/
theorem keyEventSetsOneKey : Obligations.KeyEventSetsOneKey :=
  fun s k p => ⟨fun _ hj => keyEvent_key s k p hj, keyEvent_frame s k p⟩

/-! ### The registers FLAGS, STATUS and CONFIG -/

/-- FLAGS, bit by bit (R34). -/
theorem flagsReg_getLsbD (s : State) (k : Nat) :
    s.flagsReg.getLsbD k = if k = 0 then s.draw else if k = 1 then s.beep else false := by
  rw [State.flagsReg, BitVec.getLsbD_append, BitVec.getLsbD_append]
  rcases k with _ | _ | k
  all_goals simp

/-- STATUS as a number: CAUSE stands above HALTED and below OPV (R34). -/
theorem statusReg_toNat (s : State) :
    s.statusReg.toNat = (s.opv.toNat * 8 + s.cause.code.toNat) * 2 + s.halted.toNat := by
  rw [State.statusReg, toNat_append_eq, toNat_append_eq, toNat_append_eq]
  simp

/-- STATUS, bit by bit (R34). -/
theorem statusReg_getLsbD (s : State) (k : Nat) :
    s.statusReg.getLsbD k =
      if k = 0 then s.halted else if k < 4 then s.cause.code.getLsbD (k - 1) else if k = 4 then s.opv else false := by
  rw [State.statusReg, BitVec.getLsbD_append, BitVec.getLsbD_append, BitVec.getLsbD_append]
  rcases k with _ | _ | _ | _ | _ | k
  all_goals simp

/-- CONFIG, bit by bit (R34). -/
theorem configReg_getLsbD (s : State) (k : Nat) :
    s.configReg.getLsbD k = if k = 0 then decide (s.shiftSource = .vy) else false := by
  rw [State.configReg, BitVec.getLsbD_append]
  rcases k with _ | k
  all_goals simp

/-- Settles O58, from the bits of the three registers and the value of STATUS. -/
theorem statusRegisterLayout : Obligations.StatusRegisterLayout := by
  intro s
  refine ⟨flagsReg_getLsbD s 0, flagsReg_getLsbD s 1, fun k hk => ?_, statusReg_getLsbD s 0, ?_, statusReg_getLsbD s 4,
    fun k hk => ?_, configReg_getLsbD s 0, fun k hk => ?_⟩
  · rw [flagsReg_getLsbD, if_neg (by omega), if_neg (by omega)]
  · have hcode : s.statusReg.toNat / 2 % 8 = s.cause.code.toNat := by
      rw [statusReg_toNat]
      have := s.cause.code.isLt
      have := s.halted.toNat_lt
      omega
    rw [hcode]
    cases s.cause <;> rfl
  · rw [statusReg_getLsbD, if_neg (by omega), if_neg (by omega), if_neg (by omega)]
  · rw [configReg_getLsbD, if_neg (by omega)]

/-! ### The answer of a load -/

/-- Settles O59, by the two cases of a load (R273). -/
theorem loadStatusPortCode : Obligations.LoadStatusPortCode := by
  intro font s bytes
  rw [State.loadRom_eq]
  by_cases h : bytes.length ≤ 3584
  · rw [if_pos h, if_pos h]; rfl
  · rw [if_neg h, if_neg h]; rfl

end Sys2Proof.Proofs
end

section
/-! PROOFS. Memory (20_memory.md): who writes it (R65), a read after a write (R71), and the fetch of a word that Fx55 has
stored (R62, R74). -/

namespace Sys2Proof.Proofs

open Machine

/-! ### Who writes memory -/

/-- Settles O19, from what a completed instruction can do to a byte. -/
theorem onlyTwoInstructionsWriteMemory : Obligations.OnlyTwoInstructionsWriteMemory := by
  intro s t a h hne
  obtain ⟨i, hi, hc⟩ := completes_of_not_same .mem h (fun hs => hne (hs a)) (by decide)
  rcases hc.mem a with e | ⟨x, rfl, ha⟩ | ⟨x, rfl, ha⟩
  · exact absurd e hne
  · exact .inl ⟨x, hi, ha⟩
  · exact .inr ⟨x, hi, ha⟩

/-! ### Reads after writes -/

/-- A write below 4096 gives the byte written, in a canonical memory. -/
theorem read_write_self {m : Memory} {a : Nat} (b : Byte) (hm : Memory.wf m = true) (ha : a < 4096) :
    Memory.read (Memory.write m a b) a = b := by
  rw [Memory.write, if_pos ha]
  exact Memory.read_put_self b hm

/-- Settles O27, by whether the address read is the one written. -/
theorem readAfterWrite : Obligations.ReadAfterWrite := by
  intro m a b hm ha
  refine ⟨Memory.write_wf a b hm, fun c => ?_⟩
  split
  · next h => rw [h, read_write_self b hm ha]
  · next h => exact Memory.read_write_ne m b h

/-! ### Code stored over the next instruction -/

/-- The state an Fx55 within memory leaves: V[0..x] at M[I..I+x], and the advance (R185). -/
def storedRegs (x : Nibble) (s : State) : State :=
  (s.setMem (Memory.writeList s.mem s.i.toNat (s.firstRegs x))).advance

/-- R185: an Fx55 whose range is within memory completes. -/
theorem exec_storeRegs {x : Nibble} {s : State} (h : s.i.toNat + x.toNat ≤ 0xFFF) :
    exec (.storeRegs x) s = .next (storedRegs x s) := by
  show guardRange (.storeRegs x) (x.toNat + 1) s (storedRegs x s) = _
  rw [guardRange_eq, if_pos (by omega)]

/-- R185: M[I + r] is V[r] after an Fx55, for r up to x. -/
theorem storedRegs_readByte {x r : Nibble} {s : State} (hs : MemoryCanonical s) (h : s.i.toNat + x.toNat ≤ 0xFFF)
    (hr : r.toNat ≤ x.toNat) : (storedRegs x s).readByte (s.i.toNat + r.toNat) = s.readV r := by
  have hlen := State.firstRegs_length s x
  calc (storedRegs x s).readByte (s.i.toNat + r.toNat)
      = (s.firstRegs x)[r.toNat] := Memory.read_writeList_inside _ hs (by omega) _ (by omega)
    _ = s.readV r := State.firstRegs_getElem s x r _

/-- R62: the word at PC is V[0] high and V[1] low after an Fx55 over the next instruction. -/
theorem storedRegs_opcodeAt {x : Nibble} {s : State} (hs : MemoryCanonical s) (h : s.i.toNat + x.toNat ≤ 0xFFF)
    (hx : 1 ≤ x.toNat) (hpc : (storedRegs x s).pc.toNat = s.i.toNat) :
    opcodeAt (storedRegs x s) = s.readV 0 ++ s.readV 1 := by
  have h0 : (storedRegs x s).readByte s.i.toNat = s.readV 0 := storedRegs_readByte (r := 0) hs h (Nat.zero_le _)
  have h1 : (storedRegs x s).readByte (s.i.toNat + 1) = s.readV 1 := storedRegs_readByte (r := 1) hs h hx
  rw [opcodeAt, hpc, h0, h1]

/-- Settles O28: the step is the Fx55 on the begun state, its advance leaves PC at I, and its first two bytes are the word
there. -/
theorem storedCodeIsFetchedNext : Obligations.StoredCodeIsFetchedNext := by
  intro s x hs hi hx hpc hr
  have hnext : (storedRegs x s.begun).pc.toNat = s.i.toNat := by
    have h2 : (2 : Word).toNat = 2 := rfl
    show (s.pc + 2).toNat = _
    rw [BitVec.toNat_add]
    omega
  exact ⟨storedRegs x s.begun, (step_of_executes hi).trans (exec_storeRegs hr), hnext,
    storedRegs_opcodeAt (s := s.begun) hs hr hx hnext⟩

end Sys2Proof.Proofs
end

section
/-! PROOFS. The decoder and the encoder are inverse (30_encoding.md R82, R85, R86): a word decodes to an instruction exactly
when it is that instruction's word. -/

namespace Sys2Proof.Proofs

/-! ### From an instruction to its word and back -/

/-- R85 on the words of R82: the fields of a format are the operands. -/
theorem decode_encode (i : Instr) : decode (encode i) = some i := by
  cases i with
  | cls | ret => rfl
  | jp | call | ldI | jpV0 => simp [encode, decode, fieldH_formatA, fieldNNN_formatA]
  | seImm | sneImm | ldImm | addImm | rnd => simp [encode, decode, fieldH_formatXK, fieldX_formatXK, fieldKK_formatXK]
  | seReg | sneReg | drw =>
    simp [encode, decode, fieldH_formatXYN, fieldX_formatXYN, fieldY_formatXYN, fieldN_formatXYN]
  | ldReg | orReg | andReg | xorReg | addReg | sub | shr | subn | shl =>
    simp [encode, decode, decode8, fieldH_formatXYN, fieldX_formatXYN, fieldY_formatXYN, fieldN_formatXYN]
  | skp | sknp => simp [encode, decode, decodeE, fieldH_formatXK, fieldX_formatXK, fieldKK_formatXK]
  | ldVxDt | ldVxK | ldDtVx | ldStVx | addI | ldF | ldB | storeRegs | loadRegs =>
    simp [encode, decode, decodeF, fieldH_formatXK, fieldX_formatXK, fieldKK_formatXK]

/-- R88: an instruction is its two bytes, whatever follows them. -/
theorem decodeBytes_encodeBytes (i : Instr) (rest : List Byte) :
    decodeBytes (encodeBytes i ++ rest) = .ok (i, rest) := by
  simp [encodeBytes, decodeBytes, wordOfBytes_bytes, decode_encode]

/-- Settles O1, by the constructors of the instruction. -/
theorem decodeEncodeRoundTrip : Obligations.DecodeEncodeRoundTrip :=
  fun i rest => ⟨decode_encode i, decodeBytes_encodeBytes i rest⟩

/-! ### From a word to its instruction and back -/

theorem encode_of_decode8 {n x y : Nibble} {i : Instr} (h : decode8 n x y = some i) :
    encode i = formatXYN 0x8 x y n := by
  unfold decode8 at h
  split at h <;> cases h <;> rfl

theorem encode_of_decodeE {kk : Byte} {x : Nibble} {i : Instr} (h : decodeE kk x = some i) :
    encode i = formatXK 0xE x kk := by
  unfold decodeE at h
  split at h <;> cases h <;> rfl

theorem encode_of_decodeF {kk : Byte} {x : Nibble} {i : Instr} (h : decodeF kk x = some i) :
    encode i = formatXK 0xF x kk := by
  unfold decodeF at h
  split at h <;> cases h <;> rfl

/-- R85 bucket by bucket (case h_k is bucket k - 1): the word is made of its major opcode and the fields the instruction
was given. -/
theorem encode_of_decode {op : Word} {i : Instr} (h : decode op = some i) : encode i = op := by
  have hA {m : Nibble} (hh : fieldH op = m) : formatA m (fieldNNN op) = op := hh ▸ formatA_fields op
  have hXK {m : Nibble} (hh : fieldH op = m) : formatXK m (fieldX op) (fieldKK op) = op := hh ▸ formatXK_fields op
  have hXYN {m : Nibble} (hh : fieldH op = m) : formatXYN m (fieldX op) (fieldY op) (fieldN op) = op :=
    hh ▸ formatXYN_fields op
  unfold decode at h
  split at h
  case h_1 =>
    split at h
    · next hw => cases h; exact hw.symm
    · split at h
      · next hw => cases h; exact hw.symm
      · cases h
  case h_2 hh | h_3 hh | h_11 hh | h_12 hh => cases h; exact hA hh
  case h_4 hh | h_5 hh | h_7 hh | h_8 hh | h_13 hh => cases h; exact hXK hh
  case h_6 hh | h_10 hh =>
    split at h
    · next hn => cases h; exact (congrArg (formatXYN _ _ _) hn.symm).trans (hXYN hh)
    · cases h
  case h_9 hh => exact (encode_of_decode8 h).trans (hXYN hh)
  case h_14 hh => cases h; exact hXYN hh
  case h_15 hh => exact (encode_of_decodeE h).trans (hXK hh)
  case h_16 =>
    have hh : fieldH op = 0xF#4 := by simp only [imp_false] at *; bv_omega
    exact (encode_of_decodeF h).trans (hXK hh)

/-- Settles O2, by the buckets of the decoder. -/
theorem decodedWordIsTheEncodedWord : Obligations.DecodedWordIsTheEncodedWord := fun _ _ => encode_of_decode

/-- R86: a word decodes to the instruction whose word it is, and to no other. -/
theorem decode_eq_some_iff {op : Word} {i : Instr} : decode op = some i ↔ encode i = op :=
  ⟨encode_of_decode, fun h => h ▸ decode_encode i⟩

/-- Settles O5: each word written out is the word of its instruction. -/
theorem writtenWordsDecode : Obligations.WrittenWordsDecode := by
  simp only [Obligations.WrittenWordsDecode, decode_eq_some_iff]
  decide

end Sys2Proof.Proofs
end

section
/-! PROOFS. The illegal words (30_encoding.md R89, R90) and the opcode table (R93). Whether a word is legal is a fact about
its major opcode and the sub-opcode of that bucket, which are the bits the rows of the table fix. -/

namespace Sys2Proof.Proofs

open Machine

/-! ### The illegal words -/

/-- The low nibbles of the legal words of bucket 0x8 (R81). -/
def subOps8 : List Nibble := [0x0, 0x1, 0x2, 0x3, 0x4, 0x5, 0x6, 0x7, 0xE]

/-- The low bytes of the legal words of bucket 0xE (R81). -/
def subOpsE : List Byte := [0x9E, 0xA1]

/-- The low bytes of the legal words of bucket 0xF (R81). -/
def subOpsF : List Byte := [0x07, 0x0A, 0x15, 0x18, 0x1E, 0x29, 0x33, 0x55, 0x65]

theorem decode8_eq_none_iff {n x y : Nibble} : decode8 n x y = none ↔ n ∉ subOps8 := by
  unfold decode8
  split <;> simp_all [subOps8]

theorem decodeE_eq_none_iff {kk : Byte} {x : Nibble} : decodeE kk x = none ↔ kk ∉ subOpsE := by
  unfold decodeE
  split <;> simp_all [subOpsE]

theorem decodeF_eq_none_iff {kk : Byte} {x : Nibble} : decodeF kk x = none ↔ kk ∉ subOpsF := by
  unfold decodeF
  split <;> simp_all [subOpsF]

/-- R90 by the fields of R80: the words each bucket of R85 refuses. The other buckets refuse none. -/
theorem decode_eq_none_iff {op : Word} : decode op = none ↔
    (fieldH op = 0x0#4 ∧ op ∉ [0x00E0#16, 0x00EE#16]) ∨
    ((fieldH op = 0x5#4 ∨ fieldH op = 0x9#4) ∧ fieldN op ≠ 0x0#4) ∨
    (fieldH op = 0x8#4 ∧ fieldN op ∉ subOps8) ∨
    (fieldH op = 0xE#4 ∧ fieldKK op ∉ subOpsE) ∨
    (fieldH op = 0xF#4 ∧ fieldKK op ∉ subOpsF) := by
  rw [← decode8_eq_none_iff (x := fieldX op) (y := fieldY op), ← decodeE_eq_none_iff (x := fieldX op),
    ← decodeF_eq_none_iff (x := fieldX op)]
  unfold decode
  split
  case h_1 hh => simp [hh, ite_eq_iff]
  case h_16 =>
    have hh : fieldH op = 0xF#4 := by simp only [imp_false] at *; bv_omega
    simp [hh]
  all_goals next hh => simp [hh]

/-- Two nibbles make the byte that is written with them. -/
theorem append_nibbles_inj {a b c d : Nibble} : a ++ b = c ++ d ↔ a = c ∧ b = d := by
  rw [← BitVec.toNat_inj, toNat_append_eq, toNat_append_eq]
  bv_omega

/-- Two words of format XYN are one when their nibbles are. -/
theorem formatXYN_inj {h x y n h' x' y' n' : Nibble} :
    formatXYN h x y n = formatXYN h' x' y' n' ↔ h = h' ∧ x = x' ∧ y = y' ∧ n = n' := by
  rw [← BitVec.toNat_inj, toNat_formatXYN, toNat_formatXYN]
  bv_omega

/-- The legal words of bucket 0x0, by their nibbles. -/
theorem formatXYN_0_mem_iff {x y n : Nibble} : formatXYN 0x0#4 x y n ∈ [0x00E0#16, 0x00EE#16] ↔
    x = 0x0#4 ∧ y = 0xE#4 ∧ (n = 0x0#4 ∨ n = 0xE#4) := by
  rw [show 0x00E0#16 = formatXYN 0x0#4 0x0#4 0xE#4 0x0#4 from rfl,
    show 0x00EE#16 = formatXYN 0x0#4 0x0#4 0xE#4 0xE#4 from rfl]
  simp only [List.mem_cons, List.not_mem_nil, or_false, formatXYN_inj, true_and, and_or_left]

theorem not_mem_subOps8_iff : ∀ {n : Nibble}, n ∉ subOps8 ↔
    n = 0x8#4 ∨ n = 0x9#4 ∨ n = 0xA#4 ∨ n = 0xB#4 ∨ n = 0xC#4 ∨ n = 0xD#4 ∨ n = 0xF#4 := by
  decide

/-- The low bytes of bucket 0xE, by their nibbles. -/
theorem append_mem_subOpsE_iff {y n : Nibble} : y ++ n ∈ subOpsE ↔
    (y = 0x9#4 ∧ n = 0xE#4) ∨ (y = 0xA#4 ∧ n = 0x1#4) := by
  rw [show subOpsE = [0x9#4 ++ 0xE#4, 0xA#4 ++ 0x1#4] from rfl]
  simp only [List.mem_cons, List.not_mem_nil, or_false, append_nibbles_inj]

/-- The low bytes of bucket 0xF, by their nibbles. -/
theorem append_mem_subOpsF_iff {y n : Nibble} : y ++ n ∈ subOpsF ↔
    (y = 0x0#4 ∧ (n = 0x7#4 ∨ n = 0xA#4)) ∨ (y = 0x1#4 ∧ (n = 0x5#4 ∨ n = 0x8#4 ∨ n = 0xE#4)) ∨ (y = 0x2#4 ∧ n = 0x9#4) ∨
      (y = 0x3#4 ∧ n = 0x3#4) ∨ (y = 0x5#4 ∧ n = 0x5#4) ∨ (y = 0x6#4 ∧ n = 0x5#4) := by
  rw [show subOpsF = [0x0#4 ++ 0x7#4, 0x0#4 ++ 0xA#4, 0x1#4 ++ 0x5#4, 0x1#4 ++ 0x8#4, 0x1#4 ++ 0xE#4, 0x2#4 ++ 0x9#4,
    0x3#4 ++ 0x3#4, 0x5#4 ++ 0x5#4, 0x6#4 ++ 0x5#4] from rfl]
  simp only [List.mem_cons, List.not_mem_nil, or_false, append_nibbles_inj, and_or_left, or_assoc]

/-- Settles O4: the buckets' refusals, with the fields of the word as its nibbles. -/
theorem illegalWordsAreExactlyTheListed : Obligations.IllegalWordsAreExactlyTheListed := by
  intro h x y n
  have h0 : (h = 0x0#4 ∧ formatXYN h x y n ∉ [0x00E0#16, 0x00EE#16]) ↔
      h = 0x0#4 ∧ ¬ (x = 0x0#4 ∧ y = 0xE#4 ∧ (n = 0x0#4 ∨ n = 0xE#4)) :=
    and_congr_right fun e => by rw [e, formatXYN_0_mem_iff]
  rw [show h ++ x ++ y ++ n = formatXYN h x y n from rfl, decode_eq_none_iff, fieldH_formatXYN, fieldN_formatXYN,
    fieldKK_formatXYN, h0, not_mem_subOps8_iff, append_mem_subOpsE_iff, append_mem_subOpsF_iff]
  rfl

/-- Settles O9: the step is the fault entry of the begun state (R245), and a stopped step keeps the rest. -/
theorem illegalWordRaisesDecodeError : Obligations.IllegalWordRaisesDecodeError := fun s hr hf hd =>
  ⟨_, step_decodeError hr hf hd, rfl, rfl, rfl, rfl, rfl, rfl, rfl, State.begun_beep s, rfl, rfl,
    Stopped.frame (.inr ⟨_, _, _, rfl⟩)⟩

/-! ### The rows of the table -/

/-- A field of a word survives a mask that covers it. -/
theorem extractLsb'_and_of_covered {op m : Word} {start len : Nat} (hm : m.extractLsb' start len = BitVec.allOnes len) :
    (op &&& m).extractLsb' start len = op.extractLsb' start len := by
  rw [BitVec.extractLsb'_and, hm, BitVec.and_allOnes]

/-- A field that a row's mask covers is the pattern's, in every word the row selects (R93). -/
theorem extractLsb'_of_selects {r : Row} {op : Word} (hs : r.selects op = true) {start len : Nat}
    (hm : r.mask.extractLsb' start len = BitVec.allOnes len) :
    op.extractLsb' start len = r.pattern.extractLsb' start len := by
  rw [← extractLsb'_and_of_covered hm, of_decide_eq_true hs]

/-- The row's pattern is legal, and its mask covers every bit the decoder looks at in the bucket of its pattern: the major
opcode, and the sub-opcode where there is one. -/
def FixesDecode (r : Row) : Prop :=
  decode r.pattern ≠ none ∧ fieldH r.mask = 0xF#4 ∧
  (fieldH r.pattern = 0x0#4 → r.mask = 0xFFFF#16) ∧
  (fieldH r.pattern ∈ [0x5#4, 0x8#4, 0x9#4] → fieldN r.mask = 0xF#4) ∧
  (fieldH r.pattern ∈ [0xE#4, 0xF#4] → fieldKK r.mask = 0xFF#8)

theorem rows_fixDecode : ∀ r ∈ opcodeTable, FixesDecode r := by
  unfold FixesDecode
  decide

/-- R93: a word that a row of the table selects is legal, since its row's pattern is and the decoder looks at no bit in
which the two differ. -/
theorem decode_ne_none_of_selects {r : Row} {op : Word} (hr : r ∈ opcodeTable) (hs : r.selects op = true) :
    decode op ≠ none := by
  obtain ⟨hlegal, hH, hW, hN, hKK⟩ := rows_fixDecode r hr
  have eH : fieldH op = fieldH r.pattern := extractLsb'_of_selects hs hH
  have eW (h : fieldH r.pattern = 0x0#4) : op = r.pattern := by
    rw [← of_decide_eq_true hs, hW h]; exact BitVec.and_allOnes.symm
  have eN (h : fieldH r.pattern ∈ [0x5#4, 0x8#4, 0x9#4]) : fieldN op = fieldN r.pattern :=
    extractLsb'_of_selects hs (hN h)
  have eKK (h : fieldH r.pattern ∈ [0xE#4, 0xF#4]) : fieldKK op = fieldKK r.pattern := extractLsb'_of_selects hs (hKK h)
  refine fun h => hlegal ?_
  rw [decode_eq_none_iff, eH] at h
  rw [decode_eq_none_iff]
  rcases h with ⟨hh, h⟩ | ⟨hh, h⟩ | ⟨hh, h⟩ | ⟨hh, h⟩ | ⟨hh, h⟩
  · exact .inl ⟨hh, eW hh ▸ h⟩
  · exact .inr (.inl ⟨hh, eN (by rcases hh with hh | hh <;> simp [hh]) ▸ h⟩)
  · exact .inr (.inr (.inl ⟨hh, eN (by simp [hh]) ▸ h⟩))
  · exact .inr (.inr (.inr (.inl ⟨hh, eKK (by simp [hh]) ▸ h⟩)))
  · exact .inr (.inr (.inr (.inr ⟨hh, eKK (by simp [hh]) ▸ h⟩)))

section TableRow

open Laws.TableRow

/-- Every instruction has its row in the table (30_encoding.md R81). -/
theorem tableRow_of_instr : ∀ i : Instr, Statement i
  | .cls => cls
  | .ret => ret
  | .jp _ => jp _
  | .call _ => call _
  | .seImm _ _ => seImm _ _
  | .sneImm _ _ => sneImm _ _
  | .seReg _ _ => seReg _ _
  | .ldImm _ _ => ldImm _ _
  | .addImm _ _ => addImm _ _
  | .ldReg _ _ => ldReg _ _
  | .orReg _ _ => orReg _ _
  | .andReg _ _ => andReg _ _
  | .xorReg _ _ => xorReg _ _
  | .addReg _ _ => addReg _ _
  | .sub _ _ => sub _ _
  | .shr _ _ => shr _ _
  | .subn _ _ => subn _ _
  | .shl _ _ => shl _ _
  | .sneReg _ _ => sneReg _ _
  | .ldI _ => ldI _
  | .jpV0 _ => jpV0 _
  | .rnd _ _ => rnd _ _
  | .drw _ _ _ => drw _ _ _
  | .skp _ => skp _
  | .sknp _ => sknp _
  | .ldVxDt _ => ldVxDt _
  | .ldVxK _ => ldVxK _
  | .ldDtVx _ => ldDtVx _
  | .ldStVx _ => ldStVx _
  | .addI _ => addI _
  | .ldF _ => ldF _
  | .ldB _ => ldB _
  | .storeRegs _ => storeRegs _
  | .loadRegs _ => loadRegs _

end TableRow

/-- Two rows whose patterns agree in every bit that both masks cover are one row. -/
theorem row_eq_of_patterns_agree : ∀ a ∈ opcodeTable, ∀ b ∈ opcodeTable,
    a.pattern &&& b.mask = b.pattern &&& a.mask → a = b := by
  decide

/-- R86: no word is selected by two rows. -/
theorem row_eq_of_selects {a b : Row} {op : Word} (ha : a ∈ opcodeTable) (hb : b ∈ opcodeTable)
    (hsa : a.selects op = true) (hsb : b.selects op = true) : a = b := by
  refine row_eq_of_patterns_agree a ha b hb ?_
  rw [← of_decide_eq_true hsa, ← of_decide_eq_true hsb, BitVec.and_assoc, BitVec.and_assoc, BitVec.and_comm a.mask]

/-- Settles O3: a legal word is its instruction's word, which the instruction's row selects; a selected word is legal. -/
theorem tableSelectsExactlyDecodedWords : Obligations.TableSelectsExactlyDecodedWords := by
  intro op
  have hrow : ∀ i, decode op = some i →
      ∃ r ∈ opcodeTable, r.selects op = true ∧ r.mnemonic = i.mnemonic ∧ r.format = i.format := by
    intro i hi
    obtain ⟨r, hr, hm, hf, hs⟩ := tableRow_of_instr i
    exact ⟨r, hr, encode_of_decode hi ▸ hs, hm, hf⟩
  refine ⟨⟨fun h => ?_, fun ⟨r, hr, hs⟩ => ?_⟩, hrow, fun a ha b hb => row_eq_of_selects ha hb⟩
  · obtain ⟨i, hi⟩ := Option.isSome_iff_exists.1 h
    obtain ⟨r, hr, hs, -⟩ := hrow i hi
    exact ⟨r, hr, hs⟩
  · exact Option.isSome_iff_ne_none.2 (decode_ne_none_of_selects hr hs)

end Sys2Proof.Proofs
end

section
/-! PROOFS. The cycle (40_cycle.md): what the flag clear and the tick leave, and what the step of a running core makes of
it. Such a step ends in a fault entry or in a completed instruction (R100), and DRAW, BEEP and the timers (O11, O12) are read
off in each case. -/

namespace Sys2Proof.Proofs

open Machine

/-! ### The flag clear and the tick (R102, R103) -/

/-- The flag clear and the tick change the flags and the timers at most. -/
theorem begun_frame (s : State) : UnchangedBut [.draw, .beep, .dt, .st] s s.begun := by
  intro k hk
  cases k <;> simp_all [Component.Same]

/-- Settles O6: the state the instruction runs on is the one that the flag clear and the tick leave. -/
theorem stepRunsDecodedInstruction : Obligations.StepRunsDecodedInstruction := fun s _ hi =>
  ⟨s.begun, step_of_executes hi, rfl, State.begun_beep s, rfl, rfl, rfl, rfl, begun_frame s⟩

/-- Settles O7. -/
theorem haltedStepChangesNothing : Obligations.HaltedStepChangesNothing := fun _ => step_halted

/-! ### The fetch fault (R104) -/

/-- FAULT_ADDR of a fetch fault, as a number: it fits its 16 bits. -/
theorem toNat_fetchFaultAddr (s : State) : s.fetchFaultAddr.toNat = max s.pc.toNat 0x1000 :=
  Nat.mod_eq_of_lt (max_lt s.pc.isLt (by decide))

/-- Settles O8: the step is the fault entry of the begun state (R245), and a stopped step keeps the rest. -/
theorem fetchPastMemoryFaults : Obligations.FetchPastMemoryFaults := fun s hr hf =>
  ⟨_, step_fetchFault hr (by omega), rfl, rfl, rfl, rfl, rfl, toNat_fetchFaultAddr s.begun, rfl, State.begun_beep s, rfl, rfl,
    Stopped.frame (.inr ⟨_, _, _, rfl⟩)⟩

/-! ### The step of a running core (R100) -/

/-- A step of a running core raises a fault on the begun state, or completes the instruction at PC. -/
theorem step_faults_or_completes {s t : State} (hr : s.halted = false) (h : step s = .next t) :
    (∃ c op addr, t = s.begun.raiseFault c op addr) ∨ ∃ i, Executes s i ∧ Completes i s.begun t := by
  rcases step_inversion h with ⟨hh, -⟩ | ⟨-, -, e⟩ | ⟨-, -, -, e⟩ | hi | ⟨i, c, addr, -, -, e⟩
  · rw [hr] at hh; cases hh
  · exact .inl ⟨_, _, _, e⟩
  · exact .inl ⟨_, _, _, e⟩
  · exact .inr hi
  · exact .inl ⟨_, _, _, e⟩

/-- The step of a running core whose instruction answers `u` on the begun state leaves `u`. -/
theorem step_eq_of_exec {s t u : State} {i : Instr} (h : step s = .next t) (hi : Executes s i)
    (hu : exec i s.begun = .next u) : t = u := by
  rw [step_of_executes hi, hu] at h
  injection h with h
  exact h.symm

section RunningStep

variable {s t : State} (hr : s.halted = false) (h : step s = .next t)
include hr h

/-- R102: BEEP is this step's tick of ST from 1 to 0, since no fault entry and no instruction writes it. -/
theorem step_beep : t.beep = decide (s.st = 1) := by
  rcases step_faults_or_completes hr h with ⟨c, op, addr, rfl⟩ | ⟨i, -, hc⟩
  · exact State.begun_beep s
  · exact hc.beep.trans (State.begun_beep s)

/-- R102: DRAW is set by a 00E0 or a Dxyn that completed, and by nothing else. -/
theorem step_draw_iff :
    t.draw = true ↔ t.halted = false ∧ (Executes s .cls ∨ ∃ x y n, Executes s (.drw x y n)) := by
  rcases step_faults_or_completes hr h with ⟨c, op, addr, rfl⟩ | ⟨i, hi, hc⟩
  · simp
  · have ht : t.halted = false := hc.halt.1.trans hr
    rcases hc.fb with ⟨-, hd, hcls, hdrw⟩ | ⟨hi', hd⟩
    · refine iff_of_false (by simp [hd]) ?_
      rintro ⟨-, hj | ⟨x, y, n, hj⟩⟩
      · exact hcls (executes_unique hi hj)
      · exact hdrw x y n (executes_unique hi hj)
    · refine iff_of_true hd ⟨ht, ?_⟩
      rcases hi' with rfl | ⟨x, y, n, rfl⟩
      · exact .inl hi
      · exact .inr ⟨x, y, n, hi⟩

/-- R103: a timer is the ticked one, or the V[x] that an Fx15 (for DT) or an Fx18 (for ST) of this step wrote. -/
theorem step_timers : (t.dt = ticked s.dt ∨ ∃ x, Executes s (.ldDtVx x) ∧ t.dt = s.readV x) ∧
    (t.st = ticked s.st ∨ ∃ x, Executes s (.ldStVx x) ∧ t.st = s.readV x) := by
  rcases step_faults_or_completes hr h with ⟨c, op, addr, rfl⟩ | ⟨i, hi, hc⟩
  · exact ⟨.inl rfl, .inl rfl⟩
  · exact ⟨hc.dt.imp And.left fun ⟨x, e, hx⟩ => ⟨x, e ▸ hi, hx⟩, hc.st.imp And.left fun ⟨x, e, hx⟩ => ⟨x, e ▸ hi, hx⟩⟩

end RunningStep

/-- Settles O11. -/
theorem drawAndBeepArePulses : Obligations.DrawAndBeepArePulses := fun _ _ hr h => ⟨step_beep hr h, step_draw_iff hr h⟩

/-- Settles O12: what a step can leave in the timers, and what the three timer instructions answer on the begun state. -/
theorem timersTickOncePerStep : Obligations.TimersTickOncePerStep := by
  intro s t hr h
  obtain ⟨hdt, hst⟩ := step_timers hr h
  refine ⟨hdt, hst, fun x hx => ?_, fun x hx => ?_, fun x hx => ?_, step_beep hr h⟩
  · rw [step_eq_of_exec h hx rfl]; rfl
  · rw [step_eq_of_exec h hx rfl]; rfl
  · rw [step_eq_of_exec h hx rfl]
    exact (State.writeV_readV s.begun x x s.begun.dt).trans (if_pos rfl)

end Sys2Proof.Proofs
end

section
/-! PROOFS. Control transfer (41_control.md): the two jumps (R131, R134), CALL (R132) and RET (R133). Each writes PC, SP and
STACK at most, or raises its StackFault. -/

namespace Sys2Proof.Proofs

open Machine

/-! ### Frames -/

/-- A component that keeps its value need not be named in a frame. -/
theorem unchangedBut_of_cons {c : Component} {cs : List Component} {s t : State} (h : UnchangedBut (c :: cs) s t)
    (hc : c.Same s t) : UnchangedBut cs s t := by
  intro d hd
  by_cases e : d = c
  · exact e ▸ hc
  · exact h d (by simp [e, hd])

/-- Writing STACK, SP and PC changes these three only. -/
theorem stack_sp_pc_frame (s : State) (stack : Vector Word 16) (sp : Fin 17) (pc : Word) :
    UnchangedBut [.stack, .sp, .pc] s { s with stack := stack, sp := sp, pc := pc } := by
  intro c hc
  cases c with
  | stack | sp | pc => simp at hc
  | halt => exact ⟨rfl, rfl, rfl, rfl, rfl, rfl⟩
  | regs | mem => exact fun _ => rfl
  | fb => exact fun _ _ => rfl
  | i | dt | st | keys | draw | beep | config | draws => rfl

/-- Writing SP and PC changes these two only. -/
theorem sp_pc_frame (s : State) (sp : Fin 17) (pc : Word) : UnchangedBut [.sp, .pc] s { s with sp := sp, pc := pc } :=
  unchangedBut_of_cons (stack_sp_pc_frame s s.stack sp pc) fun _ => rfl

/-- Writing PC changes PC only. -/
theorem setPc_frame (s : State) (w : Word) : UnchangedBut [.pc] s (s.setPc w) :=
  unchangedBut_of_cons (sp_pc_frame s s.sp w) rfl

/-! ### The jumps -/

/-- Settles O29: PC is the zero-extended target. -/
theorem jpSetsPc : Obligations.JpSetsPc := fun nnn s =>
  ⟨decode_encode (.jp nnn), _, rfl, toNat_zextAddr nnn, setPc_frame s _⟩

/-- Settles O32: V[0] + nnn fits in 16 bits. -/
theorem jpV0SetsPc : Obligations.JpV0SetsPc := fun nnn s =>
  ⟨decode_encode (.jpV0 nnn), _, rfl, toNat_jpV0_target (s.readV 0) nnn, setPc_frame s _⟩

/-! ### CALL and RET -/

/-- R27: a push writes the entry at SP and no other. -/
theorem stack_set_getElem (stack : Vector Word 16) {k : Nat} (w : Word) (h : k < 16) (j : Fin 16) :
    (stack.set k w h)[j] = if j.val = k then w else stack[j] := by
  simp only [Fin.getElem_fin, Vector.getElem_set, eq_comm]

/-- Settles O30, by whether the stack has a free entry. -/
theorem callPushesItsOwnAddress : Obligations.CallPushesItsOwnAddress := by
  intro nnn s
  refine ⟨decode_encode (.call nnn), ?_⟩
  rw [show exec (.call nnn) s = execCall nnn s from rfl, execCall_eq]
  by_cases h : s.sp.val < 16
  · rw [dif_pos h]
    refine ⟨_, rfl, ?_⟩
    rw [if_neg (by omega)]
    exact ⟨stack_set_getElem s.stack s.pc h, rfl, toNat_zextAddr nnn, stack_sp_pc_frame s _ _ _⟩
  · rw [dif_neg h]
    refine ⟨_, rfl, ?_⟩
    rw [if_pos (by omega)]
    exact State.raiseFault_entry s .stackOverflow _ 0

/-- Settles O31, by whether the stack holds an entry. -/
theorem retReturnsPastTheCall : Obligations.RetReturnsPastTheCall := by
  intro s
  refine ⟨decode_encode .ret, ?_⟩
  rw [show exec .ret s = execRet s from rfl, execRet_eq]
  by_cases h : 0 < s.sp.val
  · rw [dif_pos h]
    refine ⟨_, rfl, ?_⟩
    rw [if_neg (by omega)]
    refine ⟨rfl, fun j hj => ?_, sp_pc_frame s _ _⟩
    have hpop : s.stack[s.sp.val - 1] = s.stack[j] := getElem_congr_idx hj.symm
    exact congrArg (· + 2) hpop
  · rw [dif_neg h]
    refine ⟨_, rfl, ?_⟩
    rw [if_pos (by omega)]
    exact State.raiseFault_entry s .stackUnderflow _ 0

end Sys2Proof.Proofs
end

section
/-! PROOFS. The register skips (42_skip.md): each is one `skipIf` on its condition, which moves PC by 4 or by 2 (R140) and
writes nothing else. -/

namespace Sys2Proof.Proofs

open Machine

/-- R140: a skip moves PC by 4 when its condition holds, and by 2 when not. -/
theorem skipIf_pc (s : State) (p : Prop) [Decidable p] : (s.skipIf (decide p)).pc = s.pc + (if p then 4 else 2) := by
  rw [State.skipIf_eq]
  by_cases h : p <;> simp [h]

/-- R140 with the condition negated, as 4xkk and 9xy0 have it: PC moves by 2 when the operands are equal. -/
theorem skipIf_not_pc (s : State) (p : Prop) [Decidable p] : (s.skipIf (decide ¬p)).pc = s.pc + (if p then 2 else 4) := by
  rw [skipIf_pc, ite_not]

/-- R140: a skip writes PC only. -/
theorem skipIf_frame (s : State) (c : Bool) : UnchangedBut [.pc] s (s.skipIf c) := by
  rw [State.skipIf_eq]
  exact setPc_frame s _

/-- Settles O33: each word is its instruction's encoding, and each instruction is a skip on its condition. -/
theorem registerSkips : Obligations.RegisterSkips := fun x y kk s =>
  ⟨⟨decode_encode (.seImm x kk), decode_encode (.sneImm x kk), decode_encode (.seReg x y), decode_encode (.sneReg x y)⟩,
    ⟨_, rfl, skipIf_pc s (s.readV x = kk), skipIf_frame s _⟩,
    ⟨_, rfl, skipIf_not_pc s (s.readV x = kk), skipIf_frame s _⟩,
    ⟨_, rfl, skipIf_pc s (s.readV x = s.readV y), skipIf_frame s _⟩,
    ⟨_, rfl, skipIf_not_pc s (s.readV x = s.readV y), skipIf_frame s _⟩⟩

end Sys2Proof.Proofs
end

section
/-! PROOFS. Register loads and arithmetic (43_alu.md): each instruction writes one byte to V[x], five of them VF after it
(R150), and advances. What the two kinds of write leave is said once; what remains of an instruction is the arithmetic of its
byte and its flag. -/

namespace Sys2Proof.Proofs

open Machine

/-! ### The byte and the flag, in numbers (R151) -/

theorem toNat_sumByte (a b : Byte) : (sumByte a b).toNat = (a.toNat + b.toNat) % 256 := BitVec.toNat_ofNat _ _

/-- The difference modulo 256, on the integers: a borrow does not show. -/
theorem toNat_diffByte (a b : Byte) : ((diffByte a b).toNat : Int) = ((a.toNat : Int) - b.toNat) % 256 := by
  rw [diffByte, BitVec.toNat_ofInt]
  exact Int.toNat_of_nonneg (Int.emod_nonneg _ (by decide))

theorem toNat_shiftRight_one (v : Byte) : (v >>> 1).toNat = v.toNat / 2 := BitVec.toNat_ushiftRight v 1

theorem toNat_shiftLeft_one (v : Byte) : (v <<< 1).toNat = 2 * v.toNat % 256 := by
  rw [BitVec.toNat_shiftLeft, Nat.shiftLeft_eq, Nat.mul_comm]

theorem flagByte_decide (p : Prop) [Decidable p] : flagByte (decide p) = if p then 1 else 0 := by
  simp only [flagByte, decide_eq_true_eq]

theorem toNat_flagByte (f : Bool) : (flagByte f).toNat = f.toNat := by cases f <;> rfl

/-- R161: the bit that the halving drops. -/
theorem toNat_flagByte_lowBit (v : Byte) : (flagByte (lowBit v)).toNat = v.toNat % 2 := by
  rw [toNat_flagByte, lowBit, ← BitVec.testBit_toNat, Nat.toNat_testBit, pow_zero, Nat.div_one]

/-- R163: the bit that the doubling pushes out. A byte is less than 256, so its upper half has one bit. -/
theorem toNat_flagByte_highBit (v : Byte) : (flagByte (highBit v)).toNat = v.toNat / 128 := by
  rw [toNat_flagByte, highBit, ← BitVec.testBit_toNat, Nat.toNat_testBit]
  omega

/-- R152, as the claims say it. -/
theorem shiftOperand_eq (s : State) (x y : Nibble) :
    s.shiftOperand x y = if s.shiftSource = .vx then s.readV x else s.readV y := by
  unfold State.shiftOperand
  cases s.shiftSource <;> rfl

/-! ### A register write, plain or flagged, and the advance -/

/-- Writing V and PC changes these two only. -/
theorem regs_pc_frame (s : State) (v : Vector Byte 16) (pc : Word) :
    UnchangedBut [.regs, .pc] s { s with v := v, pc := pc } := by
  intro c hc
  cases c with
  | regs | pc => simp at hc
  | halt => exact ⟨rfl, rfl, rfl, rfl, rfl, rfl⟩
  | stack | mem => exact fun _ => rfl
  | fb => exact fun _ _ => rfl
  | i | sp | dt | st | keys | draw | beep | config | draws => rfl

section Write

variable (s : State) (x : Nibble) (b : Byte) (f : Bool)

theorem writeV_advance_readV : (s.writeV x b).advance.readV x = b := by
  rw [State.advance_readV, State.writeV_readV, if_pos rfl]

/-- Beside V[x], a register write and the advance leave the registers, move PC by 2, and change nothing else. -/
theorem writeV_advance_rest : OtherRegsSame x s (s.writeV x b).advance ∧ (s.writeV x b).advance.pc = s.pc + 2 ∧
    UnchangedBut [.regs, .pc] s (s.writeV x b).advance :=
  ⟨fun _ hr => writeV_readV_of_ne s b hr, rfl, regs_pc_frame s _ _⟩

theorem writeFlagged_advance_readV {x : Nibble} (hx : x ≠ 0xF) : (s.writeFlagged x b f).advance.readV x = b := by
  rw [State.advance_readV, State.writeFlagged_readV, if_neg hx, if_pos rfl]

/-- R150: VF ends as the flag, whatever x is. -/
theorem writeFlagged_advance_readVF : (s.writeFlagged x b f).advance.readV 0xF = flagByte f := by
  rw [State.advance_readV, State.writeFlagged_readV, if_pos rfl]

/-- Beside V[x] and VF, a flagged write and the advance leave the registers, move PC by 2, and change nothing else. -/
theorem writeFlagged_advance_rest : OtherRegsSameButVF x s (s.writeFlagged x b f).advance ∧
    (s.writeFlagged x b f).advance.pc = s.pc + 2 ∧ UnchangedBut [.regs, .pc] s (s.writeFlagged x b f).advance :=
  ⟨fun _ hr hF => writeFlagged_readV_of_ne s b f hr hF, rfl, regs_pc_frame s _ _⟩

end Write

/-! ### The instructions -/

/-- Settles O34. -/
theorem ldImmWritesVx : Obligations.LdImmWritesVx := fun x kk s =>
  ⟨decode_encode (.ldImm x kk), _, rfl, writeV_advance_readV s x kk, writeV_advance_rest s x kk⟩

/-- Settles O35: one register write, of the sum narrowed to a byte. -/
theorem addImmWrapsWithoutFlag : Obligations.AddImmWrapsWithoutFlag := by
  intro x kk s
  refine ⟨decode_encode (.addImm x kk), _, rfl, ?_, writeV_advance_rest s x _⟩
  rw [writeV_advance_readV, toNat_sumByte]

/-- Settles O36: four register writes; a bit of the byte written is the operation on the operands' bits. -/
theorem moveAndLogicWriteVxOnly : Obligations.MoveAndLogicWriteVxOnly := by
  intro x y s
  refine ⟨⟨decode_encode (.ldReg x y), decode_encode (.orReg x y), decode_encode (.andReg x y),
      decode_encode (.xorReg x y)⟩,
    ⟨_, rfl, writeV_advance_readV s x _, writeV_advance_rest s x _⟩,
    ⟨_, rfl, fun k _ => ?_, writeV_advance_rest s x _⟩,
    ⟨_, rfl, fun k _ => ?_, writeV_advance_rest s x _⟩,
    ⟨_, rfl, fun k _ => ?_, writeV_advance_rest s x _⟩⟩
  · rw [writeV_advance_readV, BitVec.getLsbD_or]
  · rw [writeV_advance_readV, BitVec.getLsbD_and]
  · rw [writeV_advance_readV, BitVec.getLsbD_xor]

/-- Settles O37: a flagged write of the sum and the carry. -/
theorem addRegSetsCarry : Obligations.AddRegSetsCarry := by
  intro x y s
  refine ⟨decode_encode (.addReg x y), _, rfl, fun hx => ?_, ?_, writeFlagged_advance_rest s x _ _⟩
  · rw [writeFlagged_advance_readV s _ _ hx, toNat_sumByte]
  · rw [writeFlagged_advance_readVF, carryFlag, flagByte_decide]

/-- A flagged write of a difference and its comparison: 8xy5 and 8xy7 differ in the order of the operands only. -/
theorem writeFlagged_diff (s : State) (x : Nibble) (a b : Byte) :
    let t := (s.writeFlagged x (diffByte a b) (greaterFlag a b)).advance
    (x ≠ 0xF → ((t.readV x).toNat : Int) = (a.toNat - b.toNat : Int) % 256) ∧
      t.readV 0xF = (if b.toNat < a.toNat then 1 else 0) ∧
      OtherRegsSameButVF x s t ∧ t.pc = s.pc + 2 ∧ UnchangedBut [.regs, .pc] s t := by
  refine ⟨fun hx => ?_, ?_, writeFlagged_advance_rest s x _ _⟩
  · rw [writeFlagged_advance_readV s _ _ hx, toNat_diffByte]
  · rw [writeFlagged_advance_readVF, greaterFlag, flagByte_decide]

/-- Settles O38. -/
theorem subtractionsSetStrictComparison : Obligations.SubtractionsSetStrictComparison := fun x y s =>
  ⟨⟨decode_encode (.sub x y), decode_encode (.subn x y)⟩,
    ⟨_, rfl, writeFlagged_diff s x (s.readV x) (s.readV y)⟩,
    ⟨_, rfl, writeFlagged_diff s x (s.readV y) (s.readV x)⟩⟩

/-- Settles O39: flagged writes of the shifted operand and the bit shifted out. -/
theorem shiftsBySource : Obligations.ShiftsBySource := by
  intro x y s
  refine ⟨⟨decode_encode (.shr x y), decode_encode (.shl x y)⟩, fun v hv => ?_⟩
  rw [← shiftOperand_eq] at hv
  subst hv
  refine ⟨⟨_, rfl, fun hx => ?_, ?_, writeFlagged_advance_rest s x _ _⟩,
    ⟨_, rfl, fun hx => ?_, ?_, writeFlagged_advance_rest s x _ _⟩⟩
  · rw [writeFlagged_advance_readV s _ _ hx, toNat_shiftRight_one]
  · rw [writeFlagged_advance_readVF, toNat_flagByte_lowBit]
  · rw [writeFlagged_advance_readV s _ _ hx, toNat_shiftLeft_one]
  · rw [writeFlagged_advance_readVF, toNat_flagByte_highBit]

end Sys2Proof.Proofs
end

section
/-! PROOFS. Index register and memory transfers (44_index_memory.md): three writes of I (R181 to R183), and the three bulk
instructions (R184 to R186), each of which accesses its whole range or raises MemoryFault. The range check is said once
for the three; what remains of an instruction is what it leaves within memory. -/

namespace Sys2Proof.Proofs

open Machine

/-! ### Frames -/

/-- Writing I, memory and PC changes these three only. -/
theorem i_mem_pc_frame (s : State) (w : Word) (m : Memory) (pc : Word) :
    UnchangedBut [.i, .mem, .pc] s { s with i := w, mem := m, pc := pc } := by
  intro c hc
  cases c with
  | i | mem | pc => simp at hc
  | halt => exact ⟨rfl, rfl, rfl, rfl, rfl, rfl⟩
  | regs | stack => exact fun _ => rfl
  | fb => exact fun _ _ => rfl
  | sp | dt | st | keys | draw | beep | config | draws => rfl

/-- R180: an instruction that stores bytes leaves I alone. -/
theorem setMem_advance_frame (s : State) (m : Memory) : UnchangedBut [.mem, .pc] s (s.setMem m).advance :=
  unchangedBut_of_cons (i_mem_pc_frame s s.i m _) rfl

/-- Writing I and advancing leaves memory alone. -/
theorem setI_advance_frame (s : State) (w : Word) : UnchangedBut [.i, .pc] s (s.setI w).advance :=
  unchangedBut_of_cons (c := .mem)
    (fun d hd => i_mem_pc_frame s w s.mem _ d (mt (List.Perm.swap ..).mem_iff.1 hd)) fun _ => rfl

/-! ### The writes of I -/

/-- Settles O41: I is the zero-extended operand. -/
theorem ldIWritesI : Obligations.LdIWritesI := fun nnn s =>
  ⟨decode_encode (.ldI nnn), _, rfl, toNat_zextAddr nnn, rfl, setI_advance_frame s _⟩

/-- Settles O42: the sum of two words wraps at 2^16. -/
theorem addIWrapsWithoutFlag : Obligations.AddIWrapsWithoutFlag := by
  intro x s
  refine ⟨decode_encode (.addI x), _, rfl, ?_, rfl, setI_advance_frame s _⟩
  rw [State.advance_i, State.setI_i, BitVec.toNat_add, toNat_zextByte]

/-- Settles O43: five times a byte fits in 16 bits. -/
theorem ldFPointsAtTheGlyph : Obligations.LdFPointsAtTheGlyph := fun x s =>
  ⟨decode_encode (.ldF x), _, rfl, toNat_glyphAddr (s.readV x), rfl, setI_advance_frame s _⟩

/-! ### The range check of the bulk instructions -/

/-- R70: a bulk instruction leaves what it has to within memory, and else raises its MemoryFault. `P` is what it has to
leave, and `inRange` its rule's bound on I. -/
theorem guardRange_next {ins : Instr} {len : Nat} {s ok : State} {inRange : Prop} [Decidable inRange] {P : State → Prop}
    (hrange : inRange ↔ len = 0 ∨ s.i.toNat + len ≤ 4096) (hok : inRange → P ok) :
    ∃ t, guardRange ins len s ok = .next t ∧
      if inRange then P t else FaultEntry .memoryFault (some (encode ins)) (firstOutOfRange s.i) s t := by
  rw [guardRange_eq]
  by_cases h : inRange
  · refine ⟨ok, if_pos (hrange.1 h), ?_⟩
    rw [if_pos h]
    exact hok h
  · refine ⟨_, if_neg (h ∘ hrange.2), ?_⟩
    rw [if_neg h, ofNat_max_eq_firstOutOfRange]
    exact State.raiseFault_entry s .memoryFault _ _

/-! ### The stores -/

/-- R184: hundreds, tens and units, as numbers; a digit fits in a byte. -/
theorem toNat_bcdDigits (b : Byte) :
    (bcdDigits b).map BitVec.toNat = [b.toNat / 100, b.toNat / 10 % 10, b.toNat % 10] := by
  have hb := b.isLt
  simp only [bcdDigits, List.map_cons, List.map_nil, BitVec.toNat_ofNat, List.cons.injEq, and_true]
  omega

/-- R184: where the digits are stored from `a` up, the byte at `a + j` is the j-th digit. -/
theorem read_writeList_bcdDigits {m : Memory} {a : Nat} (b : Byte) (hm : Memory.wf m = true) (ha : a + 3 ≤ 4096)
    (j : Fin 3) :
    (Memory.read (Memory.writeList m a (bcdDigits b)) (a + j)).toNat =
      [b.toNat / 100, b.toNat / 10 % 10, b.toNat % 10][j] := by
  rw [Memory.read_writeList_inside (bcdDigits b) hm ha j j.isLt]
  simp only [← toNat_bcdDigits]
  exact (List.getElem_map BitVec.toNat).symm

/-- Settles O44: the check is of three bytes, and each digit is a byte stored. -/
theorem ldBStoresThreeDigits : Obligations.LdBStoresThreeDigits := by
  intro x s hs
  refine ⟨decode_encode (.ldB x), guardRange_next (ins := .ldB x) (by omega) fun h => ?_⟩
  have hdigit := read_writeList_bcdDigits (s.readV x) hs h
  refine ⟨hdigit 0, hdigit 1, hdigit 2, fun a ha => ?_, rfl, setMem_advance_frame s _⟩
  exact Memory.read_writeList_outside _ s.mem (by rw [bcdDigits_length]; omega)

/-- Settles O45: the check is of x + 1 bytes, and each register is a byte stored. -/
theorem storeRegsWritesInclusiveRange : Obligations.StoreRegsWritesInclusiveRange := by
  intro x s hs
  refine ⟨decode_encode (.storeRegs x), guardRange_next (ins := .storeRegs x) (by omega) fun h => ?_⟩
  refine ⟨fun r hr => storedRegs_readByte hs h hr, fun a ha => ?_, rfl, setMem_advance_frame s _⟩
  exact Memory.read_writeList_outside _ s.mem (by rw [State.firstRegs_length]; omega)

/-! ### The load -/

/-- Settles O46: the check is of x + 1 bytes, and VF is loaded like any register. -/
theorem loadRegsReadsInclusiveRange : Obligations.LoadRegsReadsInclusiveRange := by
  intro x s
  refine ⟨decode_encode (.loadRegs x), guardRange_next (ins := .loadRegs x) (by omega) fun _ => ?_⟩
  exact ⟨State.loadedRegs_getElem s x, rfl, regs_pc_frame s _ _⟩

end Sys2Proof.Proofs
end

section
/-! PROOFS. Display (45_display.md): 00E0 (R202) and Dxyn (R200, R201, R203). Each writes the framebuffer and DRAW, Dxyn also
VF or its MemoryFault. What a drawn sprite leaves in a pixel and in the collision is said in the sprite bits of the claims. -/

namespace Sys2Proof.Proofs

open Machine

/-! ### Frames -/

/-- Writing V, the framebuffer, DRAW and PC changes these four only. -/
theorem regs_fb_draw_pc_frame (s : State) (v : Vector Byte 16) (fb : Framebuffer) (draw : Bool) (pc : Word) :
    UnchangedBut [.regs, .fb, .draw, .pc] s { s with v := v, fb := fb, draw := draw, pc := pc } := by
  intro c hc
  cases c with
  | regs | fb | draw | pc => simp at hc
  | halt => exact ⟨rfl, rfl, rfl, rfl, rfl, rfl⟩
  | stack | mem => exact fun _ => rfl
  | i | sp | dt | st | keys | beep | config | draws => rfl

/-- Writing the framebuffer and advancing leaves the registers alone. -/
theorem setFbDraw_advance_frame (s : State) (fb : Framebuffer) :
    UnchangedBut [.fb, .draw, .pc] s (s.setFbDraw fb).advance :=
  unchangedBut_of_cons (regs_fb_draw_pc_frame s s.v fb true _) fun _ => rfl

/-! ### 00E0 -/

/-- Settles O47: the framebuffer left is the clear one, in which every pixel is off and every byte is 0. -/
theorem clsClearsEveryPixel : Obligations.ClsClearsEveryPixel := fun s =>
  ⟨decode_encode .cls, _, rfl, pixel_clearFb, fun k => Vector.getElem_replicate k.isLt, rfl, rfl,
    setFbDraw_advance_frame s _⟩

/-! ### Dxyn -/

/-- A flag is one bit wide. -/
theorem flagByte_eq_zero_or_one (f : Bool) : flagByte f = 0 ∨ flagByte f = 1 := by
  cases f
  · exact .inl rfl
  · exact .inr rfl

theorem flagByte_eq_one_iff (f : Bool) : flagByte f = 1 ↔ f = true := by cases f <;> decide

section Sprite

variable (s : State) (x y n : Nibble)

/-- R201: drawing flips the pixels under the sprite's 1-bits and no others. -/
theorem pixel_drawSprite (px py : Nat) :
    pixel (s.drawSprite x y n).1 px py = (pixel s.fb px py ^^ spriteBit s x y n px py) := by
  rw [State.drawSprite, pixel_drawRows, rowsBit_readList]

/-- R203: the sprite collides when one of its 1-bits falls on a pixel that was on. -/
theorem drawSprite_collides_iff :
    (s.drawSprite x y n).2 = true ↔ ∃ px py, spriteBit s x y n px py = true ∧ pixel s.fb px py = true := by
  rw [State.drawSprite, drawRows_snd]
  simp only [Bool.false_eq_true, false_or, rowsBit_readList]

end Sprite

/-- Settles O48: the check is of n bytes, and what is drawn within memory is the sprite, with VF the collision. -/
theorem drwXorsTheClippedSprite : Obligations.DrwXorsTheClippedSprite := by
  intro x y n s
  refine ⟨decode_encode (.drw x y n), guardRange_next (ins := .drw x y n) Iff.rfl fun _ => ?_⟩
  have hVF : ((s.writeV 0xF (flagByte (s.drawSprite x y n).2)).setFbDraw (s.drawSprite x y n).1).advance.readV 0xF =
      flagByte (s.drawSprite x y n).2 := writeV_advance_readV s 0xF _
  rw [hVF]
  exact ⟨pixel_drawSprite s x y n, flagByte_eq_zero_or_one _,
    (flagByte_eq_one_iff _).trans (drawSprite_collides_iff s x y n), fun _ hr => writeV_readV_of_ne s _ hr, rfl, rfl,
    regs_fb_draw_pc_frame s _ _ _ _⟩

end Sys2Proof.Proofs
end

section
/-! PROOFS. Keypad and timers (46_keypad_timer.md): the key skips (R220 to R222), the wait for a key (R223), and the reads and
writes of the timers (R224 to R226). -/

namespace Sys2Proof.Proofs

open Machine

/-! ### The key skips -/

/-- R220: a key instruction leaves what it has to when its register holds a key number, and else raises KeyIndexFault. `P` is
what it has to leave. -/
theorem guardKey_next {ins : Instr} {k : Byte} {s ok : State} {P : State → Prop} (hok : P ok) :
    ∃ t, guardKey ins k s ok = .next t ∧
      if k.toNat ≤ 0xF then P t else FaultEntry .keyIndexFault (some (encode ins)) 0 s t := by
  rw [guardKey_eq]
  by_cases h : k.toNat ≤ 0xF
  · refine ⟨ok, if_pos h, ?_⟩
    rwa [if_pos h]
  · refine ⟨_, if_neg h, ?_⟩
    rw [if_neg h]
    exact State.raiseFault_entry s .keyIndexFault _ 0

/-- R221: PC moves by 4 when the key is pressed. -/
theorem skipIf_key_pc (s : State) (k : Nat) : (s.skipIf (s.key k)).pc = s.pc + (if s.keys.getLsbD k then 4 else 2) := by
  rw [← skipIf_pc, Bool.decide_eq_true, State.key]

/-- R222: PC moves by 4 when the key is not pressed. -/
theorem skipIf_not_key_pc (s : State) (k : Nat) :
    (s.skipIf (!s.key k)).pc = s.pc + (if s.keys.getLsbD k then 2 else 4) := by
  rw [← skipIf_not_pc, decide_not, Bool.decide_eq_true, State.key]

/-- Settles O50: each instruction is a guarded skip on the level of its key. -/
theorem keySkips : Obligations.KeySkips := fun x s =>
  ⟨⟨decode_encode (.skp x), decode_encode (.sknp x)⟩,
    guardKey_next (ins := .skp x) ⟨skipIf_key_pc s _, skipIf_frame s _⟩,
    guardKey_next (ins := .sknp x) ⟨skipIf_not_key_pc s _, skipIf_frame s _⟩⟩

/-! ### The wait for a key -/

/-- R223: the pressed key below which none is pressed is the lowest one. -/
theorem lowestKey_of_lowest {keys : BitVec 16} {k : Nat} (hk : k < 16) (hp : keys.getLsbD k = true)
    (hlow : ∀ j < k, keys.getLsbD j = false) : lowestKey keys = some k :=
  List.find?_range_eq_some.2 ⟨hp, List.mem_range.2 hk, fun j hj => by rw [hlow j hj]; rfl⟩

/-- A key number fits in a byte. -/
theorem toNat_keyByte {k : Nat} (hk : k < 16) : (keyByte k).toNat = k := Nat.mod_eq_of_lt (by omega)

/-- Fx0A with a key pressed (R223). -/
theorem exec_ldVxK_of_some (x : Nibble) {s : State} {k : Nat} (h : lowestKey s.keys = some k) :
    exec (.ldVxK x) s = .next (s.writeV x (keyByte k)).advance := by
  rw [show exec (.ldVxK x) s = execLdVxK x s from rfl, execLdVxK, h]

/-- Fx0A with no key pressed (R223). -/
theorem exec_ldVxK_of_none (x : Nibble) {s : State} (h : lowestKey s.keys = none) : exec (.ldVxK x) s = .next s := by
  rw [show exec (.ldVxK x) s = execLdVxK x s from rfl, execLdVxK, h]

/-- Settles O51: a write of the lowest pressed key, or nothing. -/
theorem ldVxKTakesTheLowestKey : Obligations.LdVxKTakesTheLowestKey := by
  refine fun x s => ⟨decode_encode (.ldVxK x), fun k hk hp hlow => ?_, fun h => exec_ldVxK_of_none x (lowestKey_none.2 h)⟩
  refine ⟨_, exec_ldVxK_of_some x (lowestKey_of_lowest hk hp hlow), ?_, writeV_advance_rest s x _⟩
  rw [writeV_advance_readV, toNat_keyByte hk]

/-! ### The timers -/

/-- Writing the timers and PC changes these three only: BEEP is not among them (R226). -/
theorem dt_st_pc_frame (s : State) (dt st : Byte) (pc : Word) :
    UnchangedBut [.dt, .st, .pc] s { s with dt := dt, st := st, pc := pc } := by
  intro c hc
  cases c with
  | dt | st | pc => simp at hc
  | halt => exact ⟨rfl, rfl, rfl, rfl, rfl, rfl⟩
  | regs | stack | mem => exact fun _ => rfl
  | fb => exact fun _ _ => rfl
  | i | sp | keys | draw | beep | config | draws => rfl

/-- Writing ST and advancing leaves DT alone. -/
theorem setSt_advance_frame (s : State) (b : Byte) : UnchangedBut [.st, .pc] s (s.setSt b).advance :=
  unchangedBut_of_cons (dt_st_pc_frame s s.dt b _) rfl

/-- Writing DT and advancing leaves ST alone. -/
theorem setDt_advance_frame (s : State) (b : Byte) : UnchangedBut [.dt, .pc] s (s.setDt b).advance :=
  unchangedBut_of_cons (c := .st)
    (fun d hd => dt_st_pc_frame s b s.st _ d (mt (List.Perm.swap ..).mem_iff.1 hd)) rfl

/-- Settles O52: one register write and two timer writes. -/
theorem timerTransfers : Obligations.TimerTransfers := fun x s =>
  ⟨⟨decode_encode (.ldVxDt x), decode_encode (.ldDtVx x), decode_encode (.ldStVx x)⟩,
    ⟨_, rfl, writeV_advance_readV s x s.dt, writeV_advance_rest s x _⟩,
    ⟨_, rfl, rfl, rfl, setDt_advance_frame s _⟩,
    ⟨_, rfl, rfl, rfl, setSt_advance_frame s _⟩⟩

/-- Settles O53: the step is exec of Fx07 on the begun state, whose DT is the ticked one. -/
theorem fx07ReadsTheTickedTimer : Obligations.Fx07ReadsTheTickedTimer := by
  intro s x hi
  obtain ⟨-, ⟨t, ht, hread, hrest, hpc, hframe⟩, -⟩ := timerTransfers x s.begun
  have hdt : t.dt = s.begun.dt := hframe .dt (by decide)
  exact ⟨t, (step_of_executes hi).trans ht, hread, hdt, hrest, hpc⟩

end Sys2Proof.Proofs
end

section
/-! PROOFS. Faults (60_exceptions.md). A step that halts a running core raised one of three faults: at the fetch, at the
decode, or the executing instruction's own (R247). Each is the fault entry of the begun state with the opcode fetched and the
first address out of range (R245), so the record is read off once for all three (O13); which fault it was says which check
failed (O14). -/

namespace Sys2Proof.Proofs

open Machine

/-- A step that halts a running core raised the fetch fault, the decode error, or the fault of the instruction at PC: an
instruction that completes leaves HALTED alone. -/
theorem step_halts_cases {s t : State} (hr : s.halted = false) (h : step s = .next t) (ht : t.halted = true) :
    (0xFFF ≤ s.pc.toNat ∧ t = s.begun.raiseFault .memoryFault none s.begun.fetchFaultAddr) ∨
    (s.pc.toNat < 0xFFF ∧ decode (opcodeAt s) = none ∧ t = s.begun.raiseFault .decodeError (some (opcodeAt s)) 0) ∨
    ∃ i c addr, Executes s i ∧ Faults i s.begun c addr ∧ t = s.begun.raiseFault c (some (encode i)) addr := by
  rcases step_inversion h with ⟨hh, -⟩ | ⟨-, hf⟩ | ⟨-, hd⟩ | ⟨i, -, hc⟩ | hi
  · rw [hr] at hh; cases hh
  · exact .inl hf
  · exact .inr (.inl hd)
  · have hrun : t.halted = false := hc.halt.1.trans hr
    rw [hrun] at ht; cases ht
  · exact .inr (.inr hi)

/-! ### The record (R245, R246) -/

/-- The opcode a fault record names: the word at PC, or none when the fetch itself failed. -/
def fetchedOpcode (s : State) : Option Word := if 0xFFF ≤ s.pc.toNat then none else some (opcodeAt s)

theorem fetchedOpcode_isSome_eq_false_iff (s : State) : (fetchedOpcode s).isSome = false ↔ 0xFFF ≤ s.pc.toNat := by
  simp [fetchedOpcode]

theorem fetchedOpcode_getD (s : State) :
    (fetchedOpcode s).getD 0 = if (fetchedOpcode s).isSome then opcodeAt s else 0 := by
  unfold fetchedOpcode
  split <;> rfl

theorem fetchedOpcode_of_fetchFault {s : State} (hf : 0xFFF ≤ s.pc.toNat) : fetchedOpcode s = none := if_pos hf

theorem fetchedOpcode_of_fetched {s : State} (hf : s.pc.toNat < 0xFFF) : fetchedOpcode s = some (opcodeAt s) :=
  if_neg (by omega)

/-- FAULT_OPCODE of an instruction's own fault is the word fetched (log entry 8). -/
theorem fetchedOpcode_of_executes {s : State} {i : Instr} (hi : Executes s i) : fetchedOpcode s = some (encode i) := by
  obtain ⟨-, hf, hd⟩ := hi
  rw [encode_of_decode hd]
  exact fetchedOpcode_of_fetched (by omega)

/-- An instruction's own MemoryFault names the first address out of range from I up (R240). -/
theorem faults_addr {i : Instr} {s : State} {c : Cause} {addr : Word} (h : Faults i s c addr) (hm : c = .memoryFault) :
    addr = firstOutOfRange s.i := by
  subst hm
  rcases h with ⟨h, -⟩ | ⟨h, -⟩ | ⟨h, -⟩ | ⟨-, ha, -⟩
  · cases h
  · cases h
  · cases h
  · exact ha

/-- A step that halts a running core is the fault entry of the begun state, with a cause, the opcode fetched and, for a
MemoryFault, the first address out of range of the access that failed: the instruction's from I, or the fetch from PC. -/
theorem step_halts_record {s t : State} (hr : s.halted = false) (h : step s = .next t) (ht : t.halted = true) :
    ∃ c addr, t = s.begun.raiseFault c (fetchedOpcode s) addr ∧ c ≠ .none ∧
      (c = .memoryFault → addr = firstOutOfRange (if (fetchedOpcode s).isSome then s.i else s.pc)) := by
  rcases step_halts_cases hr h ht with ⟨hf, e⟩ | ⟨hf, -, e⟩ | ⟨i, c, addr, hi, hfault, e⟩
  · rw [fetchedOpcode_of_fetchFault hf]
    exact ⟨_, _, e, by decide, fun _ => ofNat_max_eq_firstOutOfRange s.pc⟩
  · rw [fetchedOpcode_of_fetched hf]
    exact ⟨_, _, e, by decide, by simp⟩
  · rw [fetchedOpcode_of_executes hi]
    exact ⟨c, addr, e, faults_cause_ne_none hfault, faults_addr hfault⟩

/-- Settles O13: the fault entry writes the halt record only, and the record is the one of `step_halts_record`. -/
theorem faultsArePrecise : Obligations.FaultsArePrecise := by
  intro s t hr h ht
  obtain ⟨c, addr, rfl, hc, ha⟩ := step_halts_record hr h ht
  exact ⟨Stopped.frame (.inr ⟨_, _, _, rfl⟩), rfl, State.begun_beep s, rfl, rfl, hc, rfl,
    fetchedOpcode_isSome_eq_false_iff s, fetchedOpcode_getD s, if_ctx_congr Iff.rfl ha fun _ => rfl⟩

/-! ### The check that failed (R240, R247) -/

/-- The instruction at PC is one of two when it equals one of them. -/
theorem executes_or {s : State} {i j k : Instr} (hi : Executes s i) (h : i = j ∨ i = k) : Executes s j ∨ Executes s k := by
  rcases h with rfl | rfl
  · exact .inl hi
  · exact .inr hi

/-- Settles O14: the three faults of `step_halts_cases`, the last one split by the causes an instruction can raise. -/
theorem faultCausesByInstruction : Obligations.FaultCausesByInstruction := by
  intro s t hr h ht
  rcases step_halts_cases hr h ht with ⟨hf, rfl⟩ | ⟨hf, hd, rfl⟩ | ⟨i, c, addr, hi, hfault, rfl⟩
  · exact .inl ⟨rfl, hf⟩
  · exact .inr ⟨hf, .inl ⟨rfl, hd⟩⟩
  · refine .inr ⟨by have := hi.2.1; omega, .inr ?_⟩
    rcases hfault with ⟨rfl, -, ⟨n, rfl⟩, hsp⟩ | ⟨rfl, -, rfl, hsp⟩ | ⟨rfl, -, x, hx, hk⟩ | ⟨rfl, -, x, hx⟩
    · exact .inl ⟨rfl, ⟨n, hi⟩, hsp⟩
    · exact .inr (.inl ⟨rfl, hi, hsp⟩)
    · exact .inr (.inr (.inl ⟨rfl, x, executes_or hi hx, hk⟩))
    · refine .inr (.inr (.inr ⟨rfl, x, ?_⟩))
      rcases hx with ⟨rfl, hlen⟩ | ⟨hbulk, hlen⟩ | ⟨y, n, rfl, hn, hlen⟩
      · exact .inl ⟨hi, hlen⟩
      · exact .inr (.inl ⟨executes_or hi hbulk, hlen⟩)
      · exact .inr (.inr ⟨y, n, hi, hn, hlen⟩)

end Sys2Proof.Proofs
end

section
/-! PROOFS. Every step, once more: it answers a next state, and it keeps memory in the model's canonical form (log entries 7
and 2). -/

namespace Sys2Proof.Proofs

/-- Settles O10, by the four cases of a step. -/
theorem everyStepAnswersANextState : Obligations.EveryStepAnswersANextState := exists_step_next

/-- Settles O23: a step that stops leaves memory alone, and a completed instruction writes memory by `Memory.write` only. -/
theorem stepKeepsMemoryCanonical : Obligations.StepKeepsMemoryCanonical := fun _ _ => step_keeps_memoryCanonical

end Sys2Proof.Proofs
end

section
/-! PROOFS. Reset and load (70_reset_and_hazards.md R270 to R274, 10_state.md R50). The host's reset is State.reset with
three components replaced, and a load is that reset with memory rewritten; memory is said byte by byte. -/

namespace Sys2Proof.Proofs

open Machine

/-! ### State.reset -/

/-- An unlisted address in the font area reads as the default FONT (R272). -/
theorem unlisted_font (a : Fin 80) : unlisted a.val = defaultFont[a] := dif_pos a.isLt

/-- Settles O25: State.reset is a host's reset with memory set to the empty list, which is canonical. -/
theorem resetMeetsTheInvariants : Obligations.ResetMeetsTheInvariants :=
  hostReset_setMem_invariants State.reset defaultFont State.reset_mem_wf

/-- Settles O54: memory lists nothing, so it reads as the reset image, and the other elements are 0 as written. -/
theorem resetLeavesTheListedValues : Obligations.ResetLeavesTheListedValues := by
  refine ⟨fun r => Vector.getElem_replicate r.isLt, rfl, rfl, fun j => Vector.getElem_replicate j.isLt, rfl, rfl, rfl,
    unlisted_font, unlisted_out_of_range, pixel_clearFb, ?_⟩
  exact ⟨rfl, rfl, rfl, rfl, rfl, rfl, rfl, rfl, rfl, rfl⟩

/-! ### Frames -/

/-- Writing the draw counter, CONFIG and memory changes these three only. -/
theorem draws_config_mem_frame (s : State) (k : Nat) (src : ShiftSource) (m : Memory) :
    UnchangedBut [.draws, .config, .mem] s { s with mem := m, shiftSource := src, draws := k } := by
  intro c hc
  cases c with
  | draws | config | mem => simp at hc
  | halt => exact ⟨rfl, rfl, rfl, rfl, rfl, rfl⟩
  | regs | stack => exact fun _ => rfl
  | fb => exact fun _ _ => rfl
  | i | pc | sp | dt | st | keys | draw | beep => rfl

/-- Writing memory changes memory only. -/
theorem setMem_frame (s : State) (m : Memory) : UnchangedBut [.mem] s (s.setMem m) :=
  unchangedBut_of_cons (unchangedBut_of_cons (draws_config_mem_frame s s.draws s.shiftSource m) rfl) rfl

/-- R270: the host's reset is State.reset but for memory, CONFIG and the model's own draw counter. -/
theorem hostReset_frame (s : State) (font : Font) : UnchangedBut [.mem, .config, .draws] State.reset (s.hostReset font) :=
  fun c hc => draws_config_mem_frame State.reset s.draws s.shiftSource _ c (mt List.mem_reverse.2 hc)

/-! ### Memory after a reset -/

/-- R272: FONT is at 0x000..0x04F. -/
theorem hostReset_readByte_font (s : State) (font : Font) (a : Fin 80) : (s.hostReset font).readByte a.val = font[a] := by
  have hread := Memory.read_writeList_inside font.toList (a := 0) State.reset_mem_wf
    (by rw [Vector.length_toList]; decide) a.val (by rw [Vector.length_toList]; exact a.isLt)
  rw [Nat.zero_add, Vector.getElem_toList] at hread
  exact hread

/-- R270: memory beyond FONT is zero, as in State.reset. -/
theorem hostReset_readByte_beyond_font (s : State) (font : Font) {a : Nat} (h : 0x050 ≤ a) :
    (s.hostReset font).readByte a = 0 :=
  calc (s.hostReset font).readByte a
    _ = State.reset.readByte a :=
      Memory.read_writeList_outside font.toList State.reset.mem (.inr (by rw [Vector.length_toList]; omega))
    _ = 0 := unlisted_out_of_range a h

/-- Settles O55: memory by its two areas, the rest by the frame. -/
theorem hostResetFromAnyState : Obligations.HostResetFromAnyState := fun font s =>
  ⟨hostReset_readByte_font s font, fun _ h => hostReset_readByte_beyond_font s font h, State.hostReset_shiftSource s font,
    hostReset_frame s font, State.hostReset_draws s font⟩

/-! ### The load -/

/-- Settles O56: an accepted ROM is bytes written in a row from 0x200 over the reset memory, and fits below 4096. -/
theorem loadRomCopiesOrRejects : Obligations.LoadRomCopiesOrRejects := by
  intro font s bytes
  have hload := State.loadRom_eq s font bytes
  by_cases h : bytes.length ≤ 3584
  · rw [if_pos h] at hload ⊢
    rw [hload]
    exact ⟨rfl, Memory.read_writeList_inside bytes (hostReset_mem_wf s font) (by omega),
      fun _ ha => Memory.read_writeList_outside bytes _ ha, setMem_frame _ _⟩
  · rw [if_neg h] at hload ⊢
    exact hload

end Sys2Proof.Proofs
end

section
/-! PROOFS. Cxkk (43_alu.md R164): one register write, of a draw nothing is known of, and one draw counted (log entry 1). -/

namespace Sys2Proof.Proofs

open Machine

/-- Writing V, the draw counter and PC changes these three only. -/
theorem regs_pc_draws_frame (s : State) (v : Vector Byte 16) (pc : Word) (k : Nat) :
    UnchangedBut [.regs, .pc, .draws] s { s with v := v, pc := pc, draws := k } := by
  intro c hc
  cases c with
  | regs | pc | draws => simp at hc
  | halt => exact ⟨rfl, rfl, rfl, rfl, rfl, rfl⟩
  | stack | mem => exact fun _ => rfl
  | fb => exact fun _ _ => rfl
  | i | sp | dt | st | keys | draw | beep | config => rfl

/-- Settles O40: the byte written is the mask of the draw, whatever the draw is. -/
theorem rndMasksAFreeByte : Obligations.RndMasksAFreeByte := by
  intro x kk s
  have hVx : (s.writeV x (Config.randomByte s.draws &&& kk)).countDraw.advance.readV x = Config.randomByte s.draws &&& kk :=
    writeV_advance_readV s x _
  refine ⟨decode_encode (.rnd x kk), _, rfl, fun k _ => ?_, ?_, ?_, fun _ hr => writeV_readV_of_ne s _ hr, rfl, rfl,
    regs_pc_draws_frame s _ _ _⟩
  · rw [hVx, BitVec.getLsbD_and]
  · rintro rfl
    rw [hVx]
    exact BitVec.and_zero
  · rintro rfl
    rw [hVx]
    exact BitVec.and_allOnes

end Sys2Proof.Proofs
end

section
/-! PROOFS. The same sprite drawn twice at one place (45_display.md R203; log entry 5). The first draw leaves everything the
sprite is read from, so the second flips the same pixels, and collides where the first one had turned a pixel on. -/

namespace Sys2Proof.Proofs

open Machine

/-- R201: the sprite is read from V[x], V[y], I and memory. -/
theorem spriteBit_congr {s t : State} {x y : Nibble} (hx : t.readV x = s.readV x) (hy : t.readV y = s.readV y)
    (hi : t.i = s.i) (hm : ∀ a, t.readByte a = s.readByte a) (n : Nibble) (px py : Nat) :
    spriteBit t x y n px py = spriteBit s x y n px py := by
  unfold spriteBit
  rw [hx, hy, hi, hm]

/-- A draw within memory, as O48 says it: the sprite's pixels are flipped, VF is the collision, and what a sprite is read
from changes in VF only. -/
theorem exec_drw_of_inRange (x y : Nibble) {n : Nibble} {s : State} (h : n.toNat = 0 ∨ s.i.toNat + n.toNat ≤ 4096) :
    ∃ t, exec (.drw x y n) s = .next t ∧
      (∀ px py, pixel t.fb px py = (pixel s.fb px py ^^ spriteBit s x y n px py)) ∧
      (t.readV 0xF = 1 ↔ ∃ px py, spriteBit s x y n px py = true ∧ pixel s.fb px py = true) ∧
      OtherRegsSame 0xF s t ∧ t.i = s.i ∧ ∀ a, t.readByte a = s.readByte a := by
  obtain ⟨-, t, ht, hdraw⟩ := drwXorsTheClippedSprite x y n s
  rw [if_pos h] at hdraw
  obtain ⟨hpix, -, hVF, hregs, -, -, hframe⟩ := hdraw
  exact ⟨t, ht, hpix, hVF, hregs, hframe .i (by decide), hframe .mem (by decide)⟩

/-- Settles O49: both draws flip the pixels of one sprite, and a flipped pixel was off exactly when it is on now. -/
theorem drawingTwiceRestoresTheFramebuffer : Obligations.DrawingTwiceRestoresTheFramebuffer := by
  intro x y n s hx hy hrange
  obtain ⟨t, ht, hpix, -, hregs, hi, hm⟩ := exec_drw_of_inRange x y hrange
  obtain ⟨u, hu, hpix', hVF, -⟩ := exec_drw_of_inRange x y (s := t) (by rwa [hi])
  have hsprite := spriteBit_congr (hregs x hx) (hregs y hy) hi hm n
  have hVF' : u.readV 0xF = 1 ↔ ∃ px py, spriteBit s x y n px py = true ∧ pixel s.fb px py = false := by
    rw [hVF]
    refine exists₂_congr fun px py => ?_
    rw [hsprite, hpix]
    refine and_congr_right fun hbit => ?_
    rw [hbit, Bool.xor_true, Bool.not_eq_true']
  refine ⟨t, u, ht, hu, fun px py => ?_, hVF', fun hclear => ?_⟩
  · rw [hpix', hpix, hsprite, Bool.xor_assoc, Bool.xor_self, Bool.xor_false]
  · rw [hVF']
    exact exists₂_congr fun px py => and_iff_left (hclear px py)

end Sys2Proof.Proofs
end
